-- ==== Sys2Proof/Word.lean ====
section
/-! DEFINITION. The two word types of the block (spec/00_scope.md R10, R12): every value is unsigned, bit 0 is the
least significant bit, and no value is ever sign-extended. -/

namespace Sys2Proof

/-- `u8`: an unsigned 8-bit value (R12). -/
abbrev Byte := BitVec 8

/-- `u16`: an unsigned 16-bit value (R12). -/
abbrev Word := BitVec 16

/-- The 80-bit state snapshot that DUMP drives on `snap` (R65, R140). -/
abbrev Snapshot := BitVec 80

end Sys2Proof
end

