-- ==== Sys2Proof/Syntax.lean ====
section
/-! DEFINITION. The identifier types of spec/10_state.md R33 and the nine commands of spec/opcode_table.json
(spec/30_encoding.md R67). The identifiers are closed enumerations without numeric values: their codes belong to the
decoder alone (R62). -/

namespace Sys2Proof

/-- The eight 8-bit register identifiers (R33). `HLind`, written `(HL)`, names the byte in memory that HL points to and
has no storage in the block (R24). -/
inductive Register8 where
  | B | C | D | E | H | L | HLind | A
deriving DecidableEq, Repr

/-- The five 16-bit register identifiers (R33). -/
inductive Register16 where
  | BC | DE | HL | SP | PC
deriving DecidableEq, Repr

/-- The four condition flags (R33): Zero, Subtraction, HalfCarry, Carry. -/
inductive Flag where
  | Z | N | H | C
deriving DecidableEq, Repr

/-- What a port-level 16-bit register code decodes to (R63): one of the five registers, or `Reserved16(c)`, which names
no register. -/
inductive PortRegister16 where
  | reg (r : Register16)
  | reserved (c : BitVec 3)
deriving DecidableEq, Repr

/-- `RegisterSelector` (R33), with the 16-bit arm over the port-level codes as R120 has it. -/
inductive RegisterSelector where
  | r8 (r : Register8)
  | r16 (r : PortRegister16)
deriving DecidableEq, Repr

/-- `RegisterValue` (R33): a value that carries its width. -/
inductive RegisterValue where
  | v8 (v : Byte)
  | v16 (v : Word)
deriving DecidableEq, Repr

/-- The commands of the block (R13, R67), one constructor for each row of spec/opcode_table.json. -/
inductive Instr where
  | get8 (r : Register8)
  | set8 (r : Register8) (v : Byte)
  | get16 (r : PortRegister16)
  | set16 (r : PortRegister16) (v : Word)
  | getf (f : Flag)
  | setf (f : Flag) (b : Bool)
  | get (sel : RegisterSelector)
  | set (sel : RegisterSelector) (val : RegisterValue)
  | dump
deriving DecidableEq, Repr

/-- A command as the port carries it: the command word and the two operand signals presented with it (R65, R66). -/
structure CommandWord where
  cmd   : Byte
  wdata : Word
  wtag  : Bool
deriving DecidableEq, Repr

end Sys2Proof
end

