-- ==== Sys2Proof/WellFormed.lean ====
section
/-! DEFINITION. Which commands the port can carry. The identifier types are closed, so the one check left is the code of
a reserved 16-bit selector: `Reserved16(c)` exists for c = 5, 6, 7 only (spec/30_encoding.md R63). DESIGN CHOICE (log 6):
the code is plain data with this check, not a type of three values. -/

namespace Sys2Proof

/-- A port-level 16-bit selector is a register or one of the reserved codes 5 to 7 (R63). -/
def PortRegister16.wellFormed : PortRegister16 → Bool
  | .reg _ => true
  | .reserved c => decide (5#3 ≤ c)

def RegisterSelector.wellFormed : RegisterSelector → Bool
  | .r8 _ => true
  | .r16 r => r.wellFormed

/-- Every operand of the command is one that the encoding admits. A mismatched SET is well formed: it is writable on
purpose (R76). -/
def Instr.wellFormed : Instr → Bool
  | .get8 _ => true
  | .set8 _ _ => true
  | .get16 r => r.wellFormed
  | .set16 r _ => r.wellFormed
  | .getf _ => true
  | .setf _ _ => true
  | .get sel => sel.wellFormed
  | .set sel _ => sel.wellFormed
  | .dump => true

end Sys2Proof
end

