-- ==== Sys2Proof/Decode.lean ====
section
/-! DEFINITION. The decoder of spec/30_encoding.md R74, total over every `cmd`, `wdata` and `wtag`, and after it the
encoder, written from the same tables (R60, R63, R64, R67, R68, R70). -/

namespace Sys2Proof

/-! ## The command word -/

/-- `op = cmd[7:4]` (R66). -/
def opField (cmd : Byte) : BitVec 4 := cmd.extractLsb' 4 4

/-- `sel = cmd[3:0]` (R66). -/
def selField (cmd : Byte) : BitVec 4 := cmd.extractLsb' 0 4

/-- `sel[2:0]`: the register code of the formats F8, F16 and FG (R68). -/
def registerCode (cmd : Byte) : BitVec 3 := cmd.extractLsb' 0 3

/-- `sel[1:0]`: the flag code of the format FF (R68). -/
def flagField (cmd : Byte) : BitVec 2 := cmd.extractLsb' 0 2

/-- `cmd[3]`: reserved in F8 and F16, the width bit `t` in FG (R68). -/
def selBit3 (cmd : Byte) : Bool := cmd.getLsbD 3

/-- A reserved bit of format FF is set: `sel[3:2] ≠ 0` (R68, R74). -/
def flagSelReserved (cmd : Byte) : Bool := cmd.extractLsb' 2 2 != 0#2

/-- The commands as the `op` field names them (R67). -/
inductive Op where
  | get8 | set8 | get16 | set16 | getf | setf | get | set | dump
deriving DecidableEq, Repr

/-- The table of R67; op 0x9 to 0xF are reserved. -/
def opOfCode (op : BitVec 4) : Option Op :=
  match op with
  | 0x0#4 => some .get8
  | 0x1#4 => some .set8
  | 0x2#4 => some .get16
  | 0x3#4 => some .set16
  | 0x4#4 => some .getf
  | 0x5#4 => some .setf
  | 0x6#4 => some .get
  | 0x7#4 => some .set
  | 0x8#4 => some .dump
  | _ => none

/-! ## Selector codes -/

/-- R60: the 3-bit code of an 8-bit register; codes 1 to 5 are DEDUCED by the spec from its listing order
(log 8). All eight codes are in use; the last arm is code 7. -/
def r8OfCode (c : BitVec 3) : Register8 :=
  match c with
  | 0#3 => .B
  | 1#3 => .C
  | 2#3 => .D
  | 3#3 => .E
  | 4#3 => .H
  | 5#3 => .L
  | 6#3 => .HLind
  | _ => .A

/-- R63: the 3-bit port code of a 16-bit register; 5, 6 and 7 are `Reserved16(c)`. -/
def r16OfCode (c : BitVec 3) : PortRegister16 :=
  match c with
  | 0#3 => .reg .BC
  | 1#3 => .reg .DE
  | 2#3 => .reg .HL
  | 3#3 => .reg .SP
  | 4#3 => .reg .PC
  | _ => .reserved c

/-- R64: the 2-bit port code of a flag. All four codes are in use; the last arm is code 3. -/
def flagOfCode (c : BitVec 2) : Flag :=
  match c with
  | 0#2 => .Z
  | 1#2 => .N
  | 2#2 => .H
  | _ => .C

/-- `selector(t, c)` of R74. -/
def selectorOfCode (t : Bool) (c : BitVec 3) : RegisterSelector :=
  if t then .r16 (r16OfCode c) else .r8 (r8OfCode c)

/-! ## Write operands -/

/-- `wdata` is a byte: `wdata[15:8] = 0` (R70). -/
def isByteOperand (wdata : Word) : Bool := wdata.extractLsb' 8 8 == 0#8

/-- `wdata` is one bit: `wdata[15:1] = 0` (R70). -/
def isBitOperand (wdata : Word) : Bool := wdata.extractLsb' 1 15 == 0#15

/-- `wdata[7:0]` (R70). -/
def byteOperand (wdata : Word) : Byte := wdata.extractLsb' 0 8

/-- `wdata[0]` (R70). -/
def bitOperand (wdata : Word) : Bool := wdata.getLsbD 0

/-- The `RegisterValue` operand of SET: `wtag` is its tag, 0 = V8, 1 = V16 (R70, R71). -/
def valueOperand (wdata : Word) (wtag : Bool) : RegisterValue :=
  if wtag then .v16 wdata else .v8 (byteOperand wdata)

/-! ## The decoder -/

/-- Why a command is illegal: the three grounds of R69. The port reports the same IllegalCommand for all three.
DESIGN CHOICE (log 5): the names, and which one is given where two grounds hold. -/
inductive DecodeError where
  /-- `op` is 0x9 to 0xF. -/
  | reservedOp
  /-- A reserved bit of `sel` is 1. -/
  | reservedSelBit
  /-- A write operand is wider than the command takes (R70). -/
  | wideOperand
deriving DecidableEq, Repr

/-- R74, line for line. -/
def decode (cmd : Byte) (wdata : Word) (wtag : Bool) : Except DecodeError Instr :=
  match opOfCode (opField cmd) with
  | none => .error .reservedOp
  | some .get8 =>
    if selBit3 cmd then .error .reservedSelBit
    else .ok (.get8 (r8OfCode (registerCode cmd)))
  | some .set8 =>
    if selBit3 cmd then .error .reservedSelBit
    else if !isByteOperand wdata then .error .wideOperand
    else .ok (.set8 (r8OfCode (registerCode cmd)) (byteOperand wdata))
  | some .get16 =>
    if selBit3 cmd then .error .reservedSelBit
    else .ok (.get16 (r16OfCode (registerCode cmd)))
  | some .set16 =>
    if selBit3 cmd then .error .reservedSelBit
    else .ok (.set16 (r16OfCode (registerCode cmd)) wdata)
  | some .getf =>
    if flagSelReserved cmd then .error .reservedSelBit
    else .ok (.getf (flagOfCode (flagField cmd)))
  | some .setf =>
    if flagSelReserved cmd then .error .reservedSelBit
    else if !isBitOperand wdata then .error .wideOperand
    else .ok (.setf (flagOfCode (flagField cmd)) (bitOperand wdata))
  | some .get => .ok (.get (selectorOfCode (selBit3 cmd) (registerCode cmd)))
  | some .set =>
    if !wtag && !isByteOperand wdata then .error .wideOperand
    else .ok (.set (selectorOfCode (selBit3 cmd) (registerCode cmd)) (valueOperand wdata wtag))
  | some .dump =>
    if selField cmd != 0#4 then .error .reservedSelBit else .ok .dump

/-- The decoder on a command as the port carries it. -/
def CommandWord.decode (c : CommandWord) : Except DecodeError Instr :=
  Sys2Proof.decode c.cmd c.wdata c.wtag

/-! ## The encoder -/

/-- `cmd = op ‖ sel` (R66). -/
def joinCmd (op sel : BitVec 4) : Byte := op ++ sel

/-- `sel = t ‖ c`: the formats F8 and F16 with t = 0, FG with its width bit (R68). -/
def joinSel (t : BitVec 1) (c : BitVec 3) : BitVec 4 := t ++ c

/-- `sel = hi ‖ fc`: the format FF, whose `hi` must be 0 (R68). -/
def joinFlagSel (hi fc : BitVec 2) : BitVec 4 := hi ++ fc

/-- R60, from the identifier to its code. -/
def r8Code : Register8 → BitVec 3
  | .B => 0#3
  | .C => 1#3
  | .D => 2#3
  | .E => 3#3
  | .H => 4#3
  | .L => 5#3
  | .HLind => 6#3
  | .A => 7#3

/-- R63, from the port-level selector to its code. -/
def r16Code : PortRegister16 → BitVec 3
  | .reg .BC => 0#3
  | .reg .DE => 1#3
  | .reg .HL => 2#3
  | .reg .SP => 3#3
  | .reg .PC => 4#3
  | .reserved c => c

/-- R64, from the flag to its code. -/
def flagCode : Flag → BitVec 2
  | .Z => 0#2
  | .N => 1#2
  | .H => 2#2
  | .C => 3#2

/-- The `sel` field `t ‖ c` of format FG (R68). -/
def selectorBits : RegisterSelector → BitVec 4
  | .r8 r => joinSel 0#1 (r8Code r)
  | .r16 r => joinSel 1#1 (r16Code r)

/-- The `op` field of a command (R67). -/
def opCode : Instr → BitVec 4
  | .get8 _ => 0x0#4
  | .set8 _ _ => 0x1#4
  | .get16 _ => 0x2#4
  | .set16 _ _ => 0x3#4
  | .getf _ => 0x4#4
  | .setf _ _ => 0x5#4
  | .get _ => 0x6#4
  | .set _ _ => 0x7#4
  | .dump => 0x8#4

/-- The `sel` field of a command, by its format (R68). -/
def selBits : Instr → BitVec 4
  | .get8 r => joinSel 0#1 (r8Code r)
  | .set8 r _ => joinSel 0#1 (r8Code r)
  | .get16 r => joinSel 0#1 (r16Code r)
  | .set16 r _ => joinSel 0#1 (r16Code r)
  | .getf f => joinFlagSel 0#2 (flagCode f)
  | .setf f _ => joinFlagSel 0#2 (flagCode f)
  | .get sel => selectorBits sel
  | .set sel _ => selectorBits sel
  | .dump => 0x0#4

/-- `wdata` of the assembled command: its value operand, 0 if it has none (R70, R76). -/
def operandWord : Instr → Word
  | .get8 _ => 0x0000#16
  | .set8 _ v => v.setWidth 16
  | .get16 _ => 0x0000#16
  | .set16 _ v => v
  | .getf _ => 0x0000#16
  | .setf _ b => (BitVec.ofBool b).setWidth 16
  | .get _ => 0x0000#16
  | .set _ (.v8 v) => v.setWidth 16
  | .set _ (.v16 v) => v
  | .dump => 0x0000#16

/-- `wtag` of the assembled command: 1 for a `v16` operand, 0 otherwise (R76). -/
def operandTag : Instr → Bool
  | .get8 _ => false
  | .set8 _ _ => false
  | .get16 _ => false
  | .set16 _ _ => false
  | .getf _ => false
  | .setf _ _ => false
  | .get _ => false
  | .set _ (.v8 _) => false
  | .set _ (.v16 _) => true
  | .dump => false

/-- The assembled form of a command (R66, R70, R76). -/
def encode (i : Instr) : CommandWord :=
  { cmd := joinCmd (opCode i) (selBits i), wdata := operandWord i, wtag := operandTag i }

/-! ## The opcode table -/

/-- A row of spec/opcode_table.json: the words of a command are those `cmd` with `cmd & mask = pattern`. -/
structure OpcodeRow where
  op      : Op
  mask    : Byte
  pattern : Byte
deriving DecidableEq, Repr

/-- spec/opcode_table.json, its "mask" and "match" columns. -/
def opcodeTable : List OpcodeRow :=
  [⟨.get8, 0xF8#8, 0x00#8⟩, ⟨.set8, 0xF8#8, 0x10#8⟩, ⟨.get16, 0xF8#8, 0x20#8⟩, ⟨.set16, 0xF8#8, 0x30#8⟩,
   ⟨.getf, 0xFC#8, 0x40#8⟩, ⟨.setf, 0xFC#8, 0x50#8⟩, ⟨.get, 0xF0#8, 0x60#8⟩, ⟨.set, 0xF0#8, 0x70#8⟩,
   ⟨.dump, 0xFF#8, 0x80#8⟩]

def OpcodeRow.covers (row : OpcodeRow) (cmd : Byte) : Bool := cmd &&& row.mask == row.pattern

/-- The command that a decoded instruction is, as the table's rows name it. -/
def opOf : Instr → Op
  | .get8 _ => .get8
  | .set8 _ _ => .set8
  | .get16 _ => .get16
  | .set16 _ _ => .set16
  | .getf _ => .getf
  | .setf _ _ => .setf
  | .get _ => .get
  | .set _ _ => .set
  | .dump => .dump

/-! ## A command as one bit string -/

/-- A command as one number: bits 7..0 are `cmd`, bits 23..8 `wdata`, bit 24 `wtag`. Of these only `cmd` is numbered by
spec/opcode_table.json; a command given by its first `nbits` bits has zeros above them.
DESIGN CHOICE (log 4): the spec carries the three on separate wires and gives them no common numbering. -/
def commandOfBits (nbits w : Nat) : CommandWord :=
  let bits : BitVec 25 := BitVec.ofNat 25 (w % 2 ^ nbits)
  { cmd := bits.extractLsb' 0 8, wdata := bits.extractLsb' 8 16, wtag := bits.getLsbD 24 }

/-- The instruction the decoder reads from a command numbered as spec/opcode_table.json numbers it. -/
def decodeTableWord (nbits w : Nat) : Option Instr :=
  match (commandOfBits nbits w).decode with
  | .ok i => some i
  | .error _ => none

end Sys2Proof
end

