-- ==== Sys2Proof/Config.lean ====
section
/-! DEFINITION. What is fixed for the block. The block takes no open parameter (spec/00_scope.md R9) and the spec leaves
no value free (spec/93_implementation_defined.md section 1), so nothing here is `opaque`: these are the reset values of
spec/10_state.md R36. -/

namespace Sys2Proof.Config

/-- Reset value of the accumulator A (R36). -/
def resetA : Byte := 0x00#8

/-- Reset value of the flags byte: Z = N = H = C = false and the reserved bits F[7:4] = 0b0000 (R36, R29; the reserved
bits are the spec's decision D7). -/
def resetF : Byte := 0x00#8

/-- Reset value of each pair register BC, DE, HL (R36). -/
def resetPair : Word := 0x0000#16

/-- Reset value of SP (R36). -/
def resetSP : Word := 0x0000#16

/-- Reset value of PC (R36, R242). -/
def resetPC : Word := 0x0000#16

end Sys2Proof.Config
end

