-- ==== Sys2Proof/Machine/State.lean ====
section
/-! DEFINITION. The state of the block (spec/10_state.md), and beside it the two ends of its port (spec/30_encoding.md
R65): the caller's stream of inputs and the response of the last step. The block has no memory and no address space
(spec/20_memory.md R40), so the state has no memory list. -/

namespace Sys2Proof.Machine

/-- The stored state of the block, exactly these seven fields (R20). -/
structure Bank where
  A  : Byte
  F  : Byte
  BC : Word
  DE : Word
  HL : Word
  SP : Word
  PC : Word
deriving DecidableEq, Repr

/-- The three errors a command can end with (R200). Each is a response; none of them stops the block. -/
inductive ErrorKind where
  /-- The command names a selector with no storage (R201). -/
  | unsupportedRegister
  /-- SET was given a value whose width differs from its selector's (R202). -/
  | widthMismatch
  /-- The command word or its operand is not a legal encoding (R203). -/
  | illegalCommand
deriving DecidableEq, Repr

/-- What a command that ends with OK gives back (R73). -/
inductive Result where
  /-- No result: SET8, SET16, SETF, SET, a reset step and an idle step. -/
  | noValue
  /-- The value of a register, with its width: GET8, GET16, GET. -/
  | register (v : RegisterValue)
  /-- The value of a flag: GETF. -/
  | flag (b : Bool)
  /-- The snapshot on `snap`: DUMP. -/
  | snapshot (v : Snapshot)
deriving DecidableEq, Repr

/-- The response of a step: a result or an error, never both (R73). -/
inductive Response where
  | ok (r : Result)
  | error (e : ErrorKind)
deriving DecidableEq, Repr

/-- The input signals of one step (R65). -/
structure PortInput where
  rst      : Bool
  cmdValid : Bool
  cmd      : Byte
  wdata    : Word
  wtag     : Bool
deriving DecidableEq, Repr

/-- The output signals of one step (R65). -/
structure PortOutput where
  err   : BitVec 2
  rdata : Word
  rtag  : Bool
  snap  : Snapshot
deriving DecidableEq, Repr

/-- The block and its port. `bank` is all the state the spec gives the block (R20, R34). The other two fields are the
MODEL's own (log 1, log 2): `pending` is the caller's totally ordered stream of inputs, oldest first (R50), and
`response` is the response of the last step. DESIGN CHOICE: that the two stand in the state. -/
structure State where
  bank     : Bank
  pending  : List PortInput
  response : Response
deriving DecidableEq, Repr

/-- Why the block stops. It never does: the spec makes its step total (R246) and leaves nothing stuck or undefined
(spec/93_implementation_defined.md section 1), and its errors are responses (R200; DEDUCED, log 3: a
response is a next state). So nobody raises a fault and the type has no constructor (safe: there is nothing to raise). -/
inductive Fault where
deriving DecidableEq, Repr

/-- Why the model gives an instruction no meaning. -/
inductive Refusal where
  /-- Raised by an arm of `exec` whose instruction has no meaning yet; no arm does (safe: the model stops). -/
  | notModelled (mnemonic : String)
deriving DecidableEq, Repr

/-- The stored state after reset (R36). -/
def Bank.reset : Bank :=
  { A := Config.resetA, F := Config.resetF, BC := Config.resetPair, DE := Config.resetPair, HL := Config.resetPair,
    SP := Config.resetSP, PC := Config.resetPC }

/-- The block right after reset (R36, R240, R242): every field zero, the response of a reset step on the port, and no
input presented yet (DEDUCED, log 2: the response; DESIGN CHOICE, log 1: the empty stream). -/
def State.reset : State :=
  { bank := Bank.reset, pending := [], response := .ok .noValue }

end Sys2Proof.Machine
end

