-- ==== Sys2Proof/Machine/Flags.lean ====
section
/-! DEFINITION. The flags byte (spec/10_state.md R28, R29, R32): where each flag lies in F, and how one flag is read and
written. The block computes no flag from a result (R31). -/

namespace Sys2Proof.Machine

/-- `bitpos(f)` (R28): F[0] = Z, F[1] = N, F[2] = H, F[3] = C. -/
def bitpos : Flag → Nat
  | .Z => 0
  | .N => 1
  | .H => 2
  | .C => 3

/-- `0x01 << bitpos(f)` (R131). -/
def flagMask (f : Flag) : Byte := 0x01#8 <<< bitpos f

/-- `F[bitpos(f)] = 1` (R130). -/
def readFlag (f : Flag) (F : Byte) : Bool := F.getLsbD (bitpos f)

/-- F with the flag's bit set or cleared and every other bit kept (R131). -/
def writeFlag (f : Flag) (b : Bool) (F : Byte) : Byte :=
  if b then F ||| flagMask f else F &&& ~~~flagMask f

end Sys2Proof.Machine
end

