-- ==== Sys2Proof/Machine/Operands.lean ====
section
/-! DEFINITION. The registers as commands name them: the replacement of one stored field, the byte views of a pair
(spec/10_state.md R22, R23, spec/20_memory.md R43), and the one read and one write of each register width, which fail on
a selector that names no storage (spec/60_exceptions.md R201). -/

namespace Sys2Proof.Machine

/-! ## One field replaced -/

def Bank.setA (v : Byte) (b : Bank) : Bank := { b with A := v }

def Bank.setF (v : Byte) (b : Bank) : Bank := { b with F := v }

def Bank.setBC (v : Word) (b : Bank) : Bank := { b with BC := v }

def Bank.setDE (v : Word) (b : Bank) : Bank := { b with DE := v }

def Bank.setHL (v : Word) (b : Bank) : Bank := { b with HL := v }

def Bank.setSP (v : Word) (b : Bank) : Bank := { b with SP := v }

def Bank.setPC (v : Word) (b : Bank) : Bank := { b with PC := v }

/-! ## The byte views of a pair -/

/-- `pair[15:8]`: the first-named half (R43). -/
def highByte (pair : Word) : Byte := pair.extractLsb' 8 8

/-- `pair[7:0]`: the second-named half (R43). -/
def lowByte (pair : Word) : Byte := pair.extractLsb' 0 8

/-- `(pair & 0x00FF) | (zext_16(v) << 8)` (R101). -/
def setHighByte (v : Byte) (pair : Word) : Word := (pair &&& 0x00FF#16) ||| (v.setWidth 16 <<< 8)

/-- `(pair & 0xFF00) | zext_16(v)` (R101). -/
def setLowByte (v : Byte) (pair : Word) : Word := (pair &&& 0xFF00#16) ||| v.setWidth 16

/-! ## Registers as commands name them -/

/-- The 8-bit register `r` (R100). -/
def Bank.read8 (r : Register8) (b : Bank) : Except ErrorKind Byte :=
  match r with
  | .B => .ok (highByte b.BC)
  | .C => .ok (lowByte b.BC)
  | .D => .ok (highByte b.DE)
  | .E => .ok (lowByte b.DE)
  | .H => .ok (highByte b.HL)
  | .L => .ok (lowByte b.HL)
  | .A => .ok b.A
  | .HLind => .error .unsupportedRegister

/-- The bank after `v` is written to the 8-bit register `r` (R101). -/
def Bank.write8 (r : Register8) (v : Byte) (b : Bank) : Except ErrorKind Bank :=
  match r with
  | .B => .ok (b.setBC (setHighByte v b.BC))
  | .C => .ok (b.setBC (setLowByte v b.BC))
  | .D => .ok (b.setDE (setHighByte v b.DE))
  | .E => .ok (b.setDE (setLowByte v b.DE))
  | .H => .ok (b.setHL (setHighByte v b.HL))
  | .L => .ok (b.setHL (setLowByte v b.HL))
  | .A => .ok (b.setA v)
  | .HLind => .error .unsupportedRegister

/-- The 16-bit register a port-level selector names (R110). -/
def Bank.read16 (r : PortRegister16) (b : Bank) : Except ErrorKind Word :=
  match r with
  | .reg .BC => .ok b.BC
  | .reg .DE => .ok b.DE
  | .reg .HL => .ok b.HL
  | .reg .SP => .ok b.SP
  | .reg .PC => .ok b.PC
  | .reserved _ => .error .unsupportedRegister

/-- The bank after `v` is written to the 16-bit register a port-level selector names (R111). -/
def Bank.write16 (r : PortRegister16) (v : Word) (b : Bank) : Except ErrorKind Bank :=
  match r with
  | .reg .BC => .ok (b.setBC v)
  | .reg .DE => .ok (b.setDE v)
  | .reg .HL => .ok (b.setHL v)
  | .reg .SP => .ok (b.setSP v)
  | .reg .PC => .ok (b.setPC v)
  | .reserved _ => .error .unsupportedRegister

/-- The register a selector names, with the width of the selector (R120). -/
def Bank.readSelector (sel : RegisterSelector) (b : Bank) : Except ErrorKind RegisterValue :=
  match sel with
  | .r8 r => (b.read8 r).map .v8
  | .r16 r => (b.read16 r).map .v16

/-- The bank after a width-checked write: the widths are compared before the register is looked at (R121, R204). -/
def Bank.writeSelector (sel : RegisterSelector) (val : RegisterValue) (b : Bank) : Except ErrorKind Bank :=
  match sel, val with
  | .r8 r, .v8 v => b.write8 r v
  | .r16 r, .v16 v => b.write16 r v
  | .r8 _, .v16 _ => .error .widthMismatch
  | .r16 _, .v8 _ => .error .widthMismatch

end Sys2Proof.Machine
end

