-- ==== Sys2Proof/Machine/Ops.lean ====
section
/-! DEFINITION. The shared operations: how a command ends. A command ends in OK or in one error (spec/60_exceptions.md
R200); `complete` and `raise` are those two ends. An error is all the block has of an exception: it saves nothing,
writes no PC and changes no mode (R209), and there is no return from it, since the next command runs as any other
(R210). -/

namespace Sys2Proof.Machine

/-- The state with another bank. -/
def State.setBank (b : Bank) (s : State) : State := { s with bank := b }

/-- The state with another response. -/
def State.setResponse (r : Response) (s : State) : State := { s with response := r }

/-- The state with another stream of inputs to come. -/
def State.setPending (ps : List PortInput) (s : State) : State := { s with pending := ps }

/-- What a meaning answers. -/
abbrev Answer := Host.Outcome State Fault Refusal

/-- The command ends with OK: its writes take effect together at the end of the step (R48) and its result is the
response (R73). -/
def complete (b : Bank) (r : Result) (s : State) : Answer :=
  .next ((s.setBank b).setResponse (.ok r))

/-- `raise E` (R11): the command ends with error `e`, every field of the bank as it was (R205), the error alone as the
response (R73). -/
def raise (e : ErrorKind) (s : State) : Answer :=
  .next (s.setResponse (.error e))

/-- End a read: its result is the response and no field changes (R49), or the read's error is raised. -/
def endRead (r : Except ErrorKind RegisterValue) (s : State) : Answer :=
  match r with
  | .ok v => complete s.bank (.register v) s
  | .error e => raise e s

/-- End a write: the written bank takes effect with no result (R73), or the write's error is raised. -/
def endWrite (r : Except ErrorKind Bank) (s : State) : Answer :=
  match r with
  | .ok b => complete b .noValue s
  | .error e => raise e s

end Sys2Proof.Machine
end

