-- ==== Sys2Proof/Machine/Access16.lean ====
section
/-! DEFINITION. The 16-bit access port: GET16 and SET16 (spec/41_access16.md R110, R111). -/

namespace Sys2Proof.Machine

/-- GET16 (R110). -/
def execGet16 (r : PortRegister16) (s : State) : Answer :=
  endRead ((s.bank.read16 r).map .v16) s

/-- SET16 (R111). Writing PC neither fetches nor jumps (R27). -/
def execSet16 (r : PortRegister16) (v : Word) (s : State) : Answer :=
  endWrite (s.bank.write16 r v) s

end Sys2Proof.Machine
end

