-- ==== Sys2Proof/Machine/Access8.lean ====
section
/-! DEFINITION. The 8-bit access port: GET8 and SET8 (spec/40_access8.md R100, R101). -/

namespace Sys2Proof.Machine

/-- GET8 (R100). -/
def execGet8 (r : Register8) (s : State) : Answer :=
  endRead ((s.bank.read8 r).map .v8) s

/-- SET8 (R101). -/
def execSet8 (r : Register8) (v : Byte) (s : State) : Answer :=
  endWrite (s.bank.write8 r v) s

end Sys2Proof.Machine
end

