-- ==== Sys2Proof/Machine/Diagnostic.lean ====
section
/-! DEFINITION. The diagnostic dump (spec/44_diagnostic.md): the snapshot of DUMP (R140) and its text rendering (R141). -/

namespace Sys2Proof.Machine

/-- `PC ‖ F ‖ A ‖ BC ‖ DE ‖ HL` (R140); SP is not in it. -/
def Bank.snapshot (b : Bank) : Snapshot := b.PC ++ b.F ++ b.A ++ b.BC ++ b.DE ++ b.HL

/-- DUMP (R140). -/
def execDump (s : State) : Answer :=
  complete s.bank (.snapshot s.bank.snapshot) s

/-- `<n bits>` of R141: the value as `n` characters `0` and `1`, most significant bit first. -/
def binary : (n : Nat) → BitVec n → List Char
  | 0, _ => []
  | n + 1, v => (if v.getLsbD n then '1' else '0') :: binary n (v.setWidth n)

/-- `Render(s)` of R141, as a list of characters. -/
def Bank.renderChars (b : Bank) : List Char :=
  ['P', 'C', ':', ' '] ++ binary 16 b.PC ++ [' ', 'F', ':', ' '] ++ binary 8 b.F ++ [' ', 'A', ':', ' '] ++ binary 8 b.A ++
    [' ', 'B', 'C', ':', ' '] ++ binary 16 b.BC ++ [' ', 'D', 'E', ':', ' '] ++ binary 16 b.DE ++
    [' ', 'H', 'L', ':', ' '] ++ binary 16 b.HL

/-- `Render(s)` of R141, as text. -/
def Bank.render (b : Bank) : String := String.ofList b.renderChars

end Sys2Proof.Machine
end

