-- ==== Sys2Proof/Machine/FlagPort.lean ====
section
/-! DEFINITION. The flag port: GETF and SETF (spec/43_flags.md R130, R131). -/

namespace Sys2Proof.Machine

/-- GETF (R130). -/
def execGetf (f : Flag) (s : State) : Answer :=
  complete s.bank (.flag (readFlag f s.bank.F)) s

/-- SETF (R131). -/
def execSetf (f : Flag) (b : Bool) (s : State) : Answer :=
  complete (s.bank.setF (writeFlag f b s.bank.F)) .noValue s

end Sys2Proof.Machine
end

