-- ==== Sys2Proof/Machine/Generic.lean ====
section
/-! DEFINITION. Width-polymorphic access: GET and SET (spec/42_generic.md R120, R121). -/

namespace Sys2Proof.Machine

/-- GET (R120). -/
def execGet (sel : RegisterSelector) (s : State) : Answer :=
  endRead (s.bank.readSelector sel) s

/-- SET (R121). -/
def execSet (sel : RegisterSelector) (val : RegisterValue) (s : State) : Answer :=
  endWrite (s.bank.writeSelector sel val) s

end Sys2Proof.Machine
end

