-- ==== Sys2Proof/Machine/Dispatch.lean ====
section
/-! DEFINITION. One arm for each command of spec/opcode_table.json (spec/30_encoding.md R67). -/

namespace Sys2Proof.Machine

def exec (i : Instr) (s : State) : Host.Outcome State Fault Refusal :=
  match i with
  -- the 8-bit access port (R100, R101)
  | .get8 r => Sys2Proof.Machine.execGet8 r s
  | .set8 r v => Sys2Proof.Machine.execSet8 r v s
  -- the 16-bit access port (R110, R111)
  | .get16 r => Sys2Proof.Machine.execGet16 r s
  | .set16 r v => Sys2Proof.Machine.execSet16 r v s
  -- the flag port (R130, R131)
  | .getf f => Sys2Proof.Machine.execGetf f s
  | .setf f b => Sys2Proof.Machine.execSetf f b s
  -- width-polymorphic access (R120, R121)
  | .get sel => Sys2Proof.Machine.execGet sel s
  | .set sel val => Sys2Proof.Machine.execSet sel val s
  -- the diagnostic dump (R140)
  | .dump => Sys2Proof.Machine.execDump s

end Sys2Proof.Machine
end

