-- ==== Sys2Proof/Machine/Port.lean ====
section
/-! DEFINITION. The response on the output signals of the port (spec/30_encoding.md R65, R72, R73). -/

namespace Sys2Proof.Machine

/-- The `err` code of an error (R72); OK is 0. -/
def ErrorKind.code : ErrorKind → BitVec 2
  | .unsupportedRegister => 1#2
  | .widthMismatch => 2#2
  | .illegalCommand => 3#2

/-- A result on the wires (R73). -/
def Result.wires : Result → PortOutput
  | .noValue => { err := 0#2, rdata := 0x0000#16, rtag := false, snap := 0#80 }
  | .register (.v8 v) => { err := 0#2, rdata := v.setWidth 16, rtag := false, snap := 0#80 }
  | .register (.v16 v) => { err := 0#2, rdata := v, rtag := true, snap := 0#80 }
  | .flag b => { err := 0#2, rdata := (BitVec.ofBool b).setWidth 16, rtag := false, snap := 0#80 }
  | .snapshot v => { err := 0#2, rdata := 0x0000#16, rtag := false, snap := v }

/-- A response on the wires (R73): an error drives its code and zeros. -/
def Response.wires : Response → PortOutput
  | .ok r => r.wires
  | .error e => { err := e.code, rdata := 0x0000#16, rtag := false, snap := 0#80 }

end Sys2Proof.Machine
end

