-- ==== Sys2Proof/Machine/Cycle.lean ====
section
/-! DEFINITION. What one step of the block does with its inputs (spec/70_reset_and_hazards.md R240, R241, R246, R247). -/

namespace Sys2Proof.Machine

/-- The input of a step in which the caller presents nothing: `rst = 0` and `cmd_valid = 0`. -/
def PortInput.quiet : PortInput :=
  { rst := false, cmdValid := false, cmd := 0x00#8, wdata := 0x0000#16, wtag := false }

/-- The input of a step in which the caller presents a command. -/
def PortInput.present (c : CommandWord) : PortInput :=
  { rst := false, cmdValid := true, cmd := c.cmd, wdata := c.wdata, wtag := c.wtag }

/-- The reset step (R240): every field of the bank at its reset value, OK with no value. -/
def resetStep (s : State) : Answer := complete Bank.reset .noValue s

/-- The idle step (R247): no field changes, OK with no value. -/
def idleStep (s : State) : Answer := complete s.bank .noValue s

/-- The step of an illegal command (R69, R203): IllegalCommand, no field changes. -/
def illegalStep (s : State) : Answer := raise .illegalCommand s

/-- `Step` of R246 on the inputs of one step: reset first (R241), then idle, then decode and perform. -/
def performInput (p : PortInput) (s : State) : Answer :=
  if p.rst then resetStep s
  else if !p.cmdValid then idleStep s
  else match decode p.cmd p.wdata p.wtag with
    | .error _ => illegalStep s
    | .ok i => exec i s

/-- The input the next step reads: the oldest of the caller's stream (R50). DESIGN CHOICE (log 1): when the stream is
exhausted the caller presents nothing, so the step is idle. -/
def State.nextInput (s : State) : PortInput :=
  match s.pending with
  | [] => PortInput.quiet
  | p :: _ => p

/-- The state with its oldest input taken off the stream. -/
def State.takeInput (s : State) : State := s.setPending s.pending.tail

end Sys2Proof.Machine
end

