-- ==== Sys2Proof/Machine/Step.lean ====
section
/-! DEFINITION. The step of the machine: it takes the oldest input of the caller's stream and performs it
(spec/70_reset_and_hazards.md R246, spec/20_memory.md R50). -/

namespace Sys2Proof.Machine

/-- One step (R246). -/
def step (s : State) : Host.Outcome State Fault Refusal :=
  performInput s.nextInput s.takeInput

/-- The state with one command placed at the front of the caller's stream, so that the next step runs exactly it and
leaves the stream as it was (log 4). -/
def State.withFetchWord (s : State) (nbits w : Nat) : State :=
  s.setPending (PortInput.present (commandOfBits nbits w) :: s.pending)

end Sys2Proof.Machine
end

