-- ==== Sys2Proof/Machine/Assembly.lean ====
section
/-! DEFINITION. The textual form of commands (spec/30_encoding.md R76): the line that spells a command, and the
assembler that reads a line back. There is no pseudo-instruction (R77). Syntax carries no semantics (D24): the machine
uses nothing of this file. -/

namespace Sys2Proof.Machine

/-! ## From a command to its line -/

/-- A hexadecimal digit as the spec writes it (R10, R76): a decimal digit below ten, a capital letter from ten on. -/
def hexDigit (d : BitVec 4) : Char :=
  if d < 10#4 then Char.ofNat ('0'.toNat + d.toNat) else Char.ofNat ('A'.toNat + (d - 10#4).toNat)

/-- `<u8>`, with both of its digits. -/
def hexByte (v : Byte) : List Char :=
  ['0', 'x', hexDigit (v.extractLsb' 4 4), hexDigit (v.extractLsb' 0 4)]

/-- `<u16>`, with all four of its digits. -/
def hexWord (v : Word) : List Char :=
  ['0', 'x', hexDigit (v.extractLsb' 12 4), hexDigit (v.extractLsb' 8 4), hexDigit (v.extractLsb' 4 4),
   hexDigit (v.extractLsb' 0 4)]

/-- `r8 ::= B | C | D | E | H | L | (HL) | A` (R76). -/
def register8Name : Register8 → List Char
  | .B => ['B']
  | .C => ['C']
  | .D => ['D']
  | .E => ['E']
  | .H => ['H']
  | .L => ['L']
  | .HLind => ['(', 'H', 'L', ')']
  | .A => ['A']

/-- `r16 ::= BC | DE | HL | SP | PC | r16#5 | r16#6 | r16#7` (R76). -/
def register16Name : PortRegister16 → List Char
  | .reg .BC => ['B', 'C']
  | .reg .DE => ['D', 'E']
  | .reg .HL => ['H', 'L']
  | .reg .SP => ['S', 'P']
  | .reg .PC => ['P', 'C']
  | .reserved c => ['r', '1', '6', '#', hexDigit (c.setWidth 4)]

/-- `flag ::= Z | N | H | C` (R76). -/
def flagName : Flag → List Char
  | .Z => ['Z']
  | .N => ['N']
  | .H => ['H']
  | .C => ['C']

/-- `<0|1>` (R76). -/
def bitName (b : Bool) : List Char := if b then ['1'] else ['0']

/-- `r8 <r8>` or `r16 <r16>` (R76). -/
def selectorText : RegisterSelector → List Char
  | .r8 r => ['r', '8', ' '] ++ register8Name r
  | .r16 r => ['r', '1', '6', ' '] ++ register16Name r

/-- `v8 <u8>` or `v16 <u16>` (R76). -/
def valueText : RegisterValue → List Char
  | .v8 v => ['v', '8', ' '] ++ hexByte v
  | .v16 v => ['v', '1', '6', ' '] ++ hexWord v

/-- Operands are separated by a comma and a space (R76). -/
def comma : List Char := [',', ' ']

/-- The line that spells a command (R76). -/
def assemblyLine : Instr → List Char
  | .get8 r => ['g', 'e', 't', '8', ' '] ++ register8Name r
  | .set8 r v => ['s', 'e', 't', '8', ' '] ++ register8Name r ++ comma ++ hexByte v
  | .get16 r => ['g', 'e', 't', '1', '6', ' '] ++ register16Name r
  | .set16 r v => ['s', 'e', 't', '1', '6', ' '] ++ register16Name r ++ comma ++ hexWord v
  | .getf f => ['g', 'e', 't', 'f', ' '] ++ flagName f
  | .setf f b => ['s', 'e', 't', 'f', ' '] ++ flagName f ++ comma ++ bitName b
  | .get sel => ['g', 'e', 't', ' '] ++ selectorText sel
  | .set sel val => ['s', 'e', 't', ' '] ++ selectorText sel ++ comma ++ valueText val
  | .dump => ['d', 'u', 'm', 'p']

/-! ## From a line to its command -/

/-- The words of a line: what stands between its spaces. -/
def lineWords : List Char → List (List Char)
  | [] => [[]]
  | c :: cs =>
    if c = ' ' then [] :: lineWords cs
    else match lineWords cs with
      | [] => [[c]]
      | w :: ws => (c :: w) :: ws

/-- The word before a comma. -/
def beforeComma (w : List Char) : Option (List Char) :=
  if w.getLast? = some ',' then some w.dropLast else none

/-- The value of a hexadecimal digit: the nibble that `hexDigit` writes so. DESIGN CHOICE (log 7): a small letter is read
as its capital. -/
def digitValue (c : Char) : Option Nat :=
  (List.range 16).find? fun n => hexDigit (BitVec.ofNat 4 n) = c.toUpper

/-- The number that a string of digits continues, from the number read so far. -/
def readDigits : Nat → List Char → Option Nat
  | n, [] => some n
  | n, c :: cs => (digitValue c).bind fun d => readDigits (16 * n + d) cs

/-- A hexadecimal literal of value below `bound`. DESIGN CHOICE (log 7): any number of digits, at least one. -/
def readHex (bound : Nat) (w : List Char) : Option Nat :=
  match w with
  | '0' :: 'x' :: d :: ds => (readDigits 0 (d :: ds)).filter fun n => n < bound
  | _ => none

/-- `<u8>` (R76). -/
def readByte (w : List Char) : Option Byte := (readHex 256 w).map (BitVec.ofNat 8)

/-- `<u16>` (R76). -/
def readWord (w : List Char) : Option Word := (readHex 65536 w).map (BitVec.ofNat 16)

/-- `<r8>` (R76). -/
def readRegister8 (w : List Char) : Option Register8 :=
  match w with
  | ['B'] => some .B
  | ['C'] => some .C
  | ['D'] => some .D
  | ['E'] => some .E
  | ['H'] => some .H
  | ['L'] => some .L
  | ['(', 'H', 'L', ')'] => some .HLind
  | ['A'] => some .A
  | _ => none

/-- `<r16>` (R76). -/
def readRegister16 (w : List Char) : Option PortRegister16 :=
  match w with
  | ['B', 'C'] => some (.reg .BC)
  | ['D', 'E'] => some (.reg .DE)
  | ['H', 'L'] => some (.reg .HL)
  | ['S', 'P'] => some (.reg .SP)
  | ['P', 'C'] => some (.reg .PC)
  | ['r', '1', '6', '#', '5'] => some (.reserved 5#3)
  | ['r', '1', '6', '#', '6'] => some (.reserved 6#3)
  | ['r', '1', '6', '#', '7'] => some (.reserved 7#3)
  | _ => none

/-- `<flag>` (R76). -/
def readFlagName (w : List Char) : Option Flag :=
  match w with
  | ['Z'] => some .Z
  | ['N'] => some .N
  | ['H'] => some .H
  | ['C'] => some .C
  | _ => none

/-- `<0|1>` (R76). -/
def readBit (w : List Char) : Option Bool :=
  match w with
  | ['0'] => some false
  | ['1'] => some true
  | _ => none

/-- `r8 <r8>` or `r16 <r16>` (R76). -/
def readSelectorText (kind w : List Char) : Option RegisterSelector :=
  if kind = ['r', '8'] then (readRegister8 w).map .r8
  else if kind = ['r', '1', '6'] then (readRegister16 w).map .r16
  else none

/-- `v8 <u8>` or `v16 <u16>` (R76). -/
def readValueText (kind w : List Char) : Option RegisterValue :=
  if kind = ['v', '8'] then (readByte w).map .v8
  else if kind = ['v', '1', '6'] then (readWord w).map .v16
  else none

/-- A line with one operand word: get8, get16, getf. -/
def assembleRead (m w : List Char) : Option Instr :=
  if m = ['g', 'e', 't', '8'] then (readRegister8 w).map .get8
  else if m = ['g', 'e', 't', '1', '6'] then (readRegister16 w).map .get16
  else if m = ['g', 'e', 't', 'f'] then (readFlagName w).map .getf
  else none

/-- A line with a named operand and a value: set8, set16, setf. -/
def assembleWrite (m w v : List Char) : Option Instr :=
  if m = ['s', 'e', 't', '8'] then (readRegister8 w).bind fun r => (readByte v).map (.set8 r)
  else if m = ['s', 'e', 't', '1', '6'] then (readRegister16 w).bind fun r => (readWord v).map (.set16 r)
  else if m = ['s', 'e', 't', 'f'] then (readFlagName w).bind fun f => (readBit v).map (.setf f)
  else none

/-- The command a line spells, if it spells one (R76). DESIGN CHOICE (log 7): exactly one space stands where the
grammar has white space. -/
def assemble (line : List Char) : Option Instr :=
  match lineWords line with
  | [m] => if m = ['d', 'u', 'm', 'p'] then some .dump else none
  | [m, w] => assembleRead m w
  | [m, w, v] =>
    if m = ['g', 'e', 't'] then (readSelectorText w v).map .get
    else (beforeComma w).bind fun w => assembleWrite m w v
  | [m, kind, w, tag, v] =>
    if m = ['s', 'e', 't'] then
      (beforeComma w).bind fun w =>
        (readSelectorText kind w).bind fun sel => (readValueText tag v).map (.set sel)
    else none
  | _ => none

/-- The assembled form of a line: `cmd` with its `wdata` and `wtag` (R76). -/
def assembleLine (line : List Char) : Option CommandWord := (assemble line).map encode

end Sys2Proof.Machine
end

