-- ==== Sys2Proof/Safety.lean ====
section
/-! DEFINITION. The terms in which claims about the block are stated: a command presented on the port, the invariant that
every step keeps, and the block seen as independent bytes and flags, the view against which the stored pairs and the
packed flags byte are checked (spec/00_scope.md R1, spec/10_state.md R22, R28, R37). -/

namespace Sys2Proof.Machine

/-- The state in which the caller presents the command `c` next, before the rest of its stream. -/
def State.presenting (s : State) (c : CommandWord) : State :=
  s.setPending (PortInput.present c :: s.pending)

/-! ## The invariant -/

/-- The reserved bits of the flags byte, `F[7:4]` (R29). -/
def reservedBits (F : Byte) : BitVec 4 := F.extractLsb' 4 4

/-- `snap[63:60]`: where the snapshot shows F[7:4] (R140). -/
def dumpedReservedBits (snap : Snapshot) : BitVec 4 := snap.extractLsb' 60 4

/-- The reserved bits of F are 0, and a snapshot on the port shows them as 0 (R29, R140). -/
structure State.Inv (s : State) : Prop where
  reserved : reservedBits s.bank.F = 0#4
  dumped   : dumpedReservedBits s.response.wires.snap = 0#4

/-! ## The block as independent bytes and flags -/

/-- The registers and flags as a caller names them: seven bytes, two words, four flags and the reserved bits, with no
sharing of storage. -/
structure ByteView where
  A  : Byte
  B  : Byte
  C  : Byte
  D  : Byte
  E  : Byte
  H  : Byte
  L  : Byte
  SP : Word
  PC : Word
  flagZ : Bool
  flagN : Bool
  flagH : Bool
  flagC : Bool
  reserved : BitVec 4
deriving DecidableEq, Repr

/-- The view of the stored state (R23, R28, R29). -/
def Bank.view (b : Bank) : ByteView :=
  { A := b.A, B := b.BC.extractLsb' 8 8, C := b.BC.extractLsb' 0 8, D := b.DE.extractLsb' 8 8, E := b.DE.extractLsb' 0 8,
    H := b.HL.extractLsb' 8 8, L := b.HL.extractLsb' 0 8, SP := b.SP, PC := b.PC, flagZ := b.F.getLsbD 0,
    flagN := b.F.getLsbD 1, flagH := b.F.getLsbD 2, flagC := b.F.getLsbD 3, reserved := b.F.extractLsb' 4 4 }

namespace ByteView

/-- Every register zero, every flag false (R36). -/
def zero : ByteView :=
  { A := 0#8, B := 0#8, C := 0#8, D := 0#8, E := 0#8, H := 0#8, L := 0#8, SP := 0#16, PC := 0#16, flagZ := false,
    flagN := false, flagH := false, flagC := false, reserved := 0#4 }

/-- The byte an 8-bit identifier names; HLind names none (R24). -/
def byte? (v : ByteView) : Register8 → Option Byte
  | .B => some v.B
  | .C => some v.C
  | .D => some v.D
  | .E => some v.E
  | .H => some v.H
  | .L => some v.L
  | .HLind => none
  | .A => some v.A

/-- The view with one byte replaced. -/
def setByte? (v : ByteView) (x : Byte) : Register8 → Option ByteView
  | .B => some { v with B := x }
  | .C => some { v with C := x }
  | .D => some { v with D := x }
  | .E => some { v with E := x }
  | .H => some { v with H := x }
  | .L => some { v with L := x }
  | .HLind => none
  | .A => some { v with A := x }

/-- The word a 16-bit selector names: a pair is its two bytes, high byte first (R43). -/
def word? (v : ByteView) : PortRegister16 → Option Word
  | .reg .BC => some (v.B ++ v.C)
  | .reg .DE => some (v.D ++ v.E)
  | .reg .HL => some (v.H ++ v.L)
  | .reg .SP => some v.SP
  | .reg .PC => some v.PC
  | .reserved _ => none

/-- The view with one word replaced: a pair replaces both of its bytes (R23). -/
def setWord? (v : ByteView) (x : Word) : PortRegister16 → Option ByteView
  | .reg .BC => some { v with B := x.extractLsb' 8 8, C := x.extractLsb' 0 8 }
  | .reg .DE => some { v with D := x.extractLsb' 8 8, E := x.extractLsb' 0 8 }
  | .reg .HL => some { v with H := x.extractLsb' 8 8, L := x.extractLsb' 0 8 }
  | .reg .SP => some { v with SP := x }
  | .reg .PC => some { v with PC := x }
  | .reserved _ => none

def flag (v : ByteView) : Flag → Bool
  | .Z => v.flagZ
  | .N => v.flagN
  | .H => v.flagH
  | .C => v.flagC

def setFlag (v : ByteView) (b : Bool) : Flag → ByteView
  | .Z => { v with flagZ := b }
  | .N => { v with flagN := b }
  | .H => { v with flagH := b }
  | .C => { v with flagC := b }

/-- The snapshot, byte by byte and flag by flag (R28, R140). -/
def snapshot (v : ByteView) : Snapshot :=
  v.PC ++ (v.reserved ++ BitVec.ofBool v.flagC ++ BitVec.ofBool v.flagH ++ BitVec.ofBool v.flagN ++ BitVec.ofBool v.flagZ) ++
    v.A ++ v.B ++ v.C ++ v.D ++ v.E ++ v.H ++ v.L

/-- A read of a register of the view. -/
def endRead (v : ByteView) : Option RegisterValue → ByteView × Response
  | some x => (v, .ok (.register x))
  | none => (v, .error .unsupportedRegister)

/-- A write of a register of the view. -/
def endWrite (v : ByteView) : Option ByteView → ByteView × Response
  | some v' => (v', .ok .noValue)
  | none => (v, .error .unsupportedRegister)

/-- A command on independent bytes and flags (R100 to R140). -/
def perform (v : ByteView) : Instr → ByteView × Response
  | .get8 r => v.endRead ((v.byte? r).map .v8)
  | .set8 r x => v.endWrite (v.setByte? x r)
  | .get16 r => v.endRead ((v.word? r).map .v16)
  | .set16 r x => v.endWrite (v.setWord? x r)
  | .getf f => (v, .ok (.flag (v.flag f)))
  | .setf f b => (v.setFlag b f, .ok .noValue)
  | .get (.r8 r) => v.endRead ((v.byte? r).map .v8)
  | .get (.r16 r) => v.endRead ((v.word? r).map .v16)
  | .set (.r8 r) (.v8 x) => v.endWrite (v.setByte? x r)
  | .set (.r16 r) (.v16 x) => v.endWrite (v.setWord? x r)
  | .set (.r8 _) (.v16 _) => (v, .error .widthMismatch)
  | .set (.r16 _) (.v8 _) => (v, .error .widthMismatch)
  | .dump => (v, .ok (.snapshot v.snapshot))

/-- A step on independent bytes and flags (R246). -/
def step (v : ByteView) (p : PortInput) : ByteView × Response :=
  if p.rst then (zero, .ok .noValue)
  else if p.cmdValid then
    match decode p.cmd p.wdata p.wtag with
    | .error _ => (v, .error .illegalCommand)
    | .ok i => v.perform i
  else (v, .ok .noValue)

/-- The view after a stream of inputs, oldest first (R50). -/
def stream (v : ByteView) (ps : List PortInput) : ByteView := ps.foldl (fun v p => (v.step p).1) v

end ByteView

end Sys2Proof.Machine
end

