-- ==== Sys2Proof/Certificates/Slice0/Obligations.lean ====
section
/-! DEFINITION. The statements for the provers. Each docstring names the rule of spec/ it formalises. "Decided" in a
docstring says which decision D<n> of spec/92_eei_decisions.md the rule itself names; "inference" says that the spec
marks the rule as derived, and such a statement cites the section and not the rule. -/

section
open Sys2Proof Sys2Proof.Machine

/-! ## Reset, idle and the step -/

/-- R36: after reset every field is zero, every 8-bit half too, and all flags are false. -/
def Obligations.ResetLeavesEveryFieldZero : Prop :=
  State.reset.bank =
    { A := 0x00#8, F := 0x00#8, BC := 0x0000#16, DE := 0x0000#16, HL := 0x0000#16, SP := 0x0000#16, PC := 0x0000#16 } ∧
  (∀ r, r ≠ .HLind → State.reset.bank.read8 r = .ok 0x00#8) ∧
  (∀ f, readFlag f State.reset.bank.F = false) ∧
  reservedBits State.reset.bank.F = 0#4

/-- R240, R241 (decided: D14): a step with `rst = 1` zeroes every field whatever the state before, responds OK with no
value, and discards a command of the same step. The rest of the caller's stream stays. -/
def Obligations.ResetStepZeroesBankAndDiscardsCommand : Prop :=
  ∀ (b : Bank) (resp : Response) (rest : List PortInput) (cmdValid : Bool) (cmd : Byte) (wdata : Word) (wtag : Bool),
    step { bank := b, pending := ⟨true, cmdValid, cmd, wdata, wtag⟩ :: rest, response := resp } =
      .next
        { bank :=
            { A := 0x00#8, F := 0x00#8, BC := 0x0000#16, DE := 0x0000#16, HL := 0x0000#16, SP := 0x0000#16,
              PC := 0x0000#16 }
          pending := rest
          response := .ok .noValue } ∧
    (Response.ok .noValue).wires = { err := 0#2, rdata := 0x0000#16, rtag := false, snap := 0#80 }

/-- R247 (decided: D15): a step with `rst = 0` and `cmd_valid = 0` changes no state and responds OK with no value,
whatever stands on the other inputs. -/
def Obligations.IdleStepChangesNothing : Prop :=
  ∀ (b : Bank) (resp : Response) (rest : List PortInput) (cmd : Byte) (wdata : Word) (wtag : Bool),
    step { bank := b, pending := ⟨false, false, cmd, wdata, wtag⟩ :: rest, response := resp } =
      .next { bank := b, pending := rest, response := .ok .noValue } ∧
    (Response.ok .noValue).wires = { err := 0#2, rdata := 0x0000#16, rtag := false, snap := 0#80 }

/-- The model's choice (log 1): when the caller's stream is exhausted, the step is an idle step. -/
def Obligations.ExhaustedStreamStepsIdle : Prop :=
  ∀ (b : Bank) (resp : Response),
    step { bank := b, pending := [], response := resp } = .next { bank := b, pending := [], response := .ok .noValue }

/-- R246 (decided: D1): a step takes the oldest input `p` off the stream and is one of four: a reset, an idle step, the
step of an illegal command, which responds IllegalCommand and changes no field, or `exec i` for the command `i` that the
input decodes to. -/
def Obligations.StepRunsDecodedCommand : Prop :=
  ∀ (s : State) (p : PortInput),
    let presented : State := { s with pending := p :: s.pending }
    (p.rst = true → step presented = .next { s with bank := State.reset.bank, response := .ok .noValue }) ∧
    (p.rst = false → p.cmdValid = false → step presented = .next { s with response := .ok .noValue }) ∧
    (p.rst = false → p.cmdValid = true → ∀ e, decode p.cmd p.wdata p.wtag = .error e →
      step presented = .next { s with response := .error .illegalCommand }) ∧
    (p.rst = false → p.cmdValid = true → ∀ i, decode p.cmd p.wdata p.wtag = .ok i → step presented = exec i s)

/-- The assembled form of every well-formed command, presented on the port, runs exactly that command; so does the word
the host places (log 4). -/
def Obligations.AssembledCommandIsPerformed : Prop :=
  (∀ (s : State) (i : Instr), i.wellFormed = true → step (s.presenting (encode i)) = exec i s) ∧
  (∀ (s : State) (nbits w : Nat) (i : Instr), decodeTableWord nbits w = some i → step (s.withFetchWord nbits w) = exec i s)

/-- The step is total (section 2 of spec/70_reset_and_hazards.md), so no stream of inputs ever stops the machine, from any state. -/
def Obligations.EveryRunGoesOn : Prop :=
  ∀ (k : Nat) (s : State), ∃ t : State, Sys2Proof.core.run k s = .next t ∧ t.pending = s.pending.drop k

/-- No hidden state (section 4 of spec/10_state.md): nothing but the seven fields and the inputs bears on a step; in particular the previous response does not. -/
def Obligations.StepIgnoresEarlierResponse : Prop :=
  ∀ (s : State) (r : Response), step { s with response := r } = step s

/-! ## Encodings -/

/-- The codes of the 8-bit registers, B = 0 to A = 7 with HLind at 6. Codes 1 to 5 are an inference the spec marks as its
own (listing order; log 8). -/
def Obligations.Register8CodesFollowListingOrder : Prop :=
  r8OfCode 0#3 = .B ∧ r8OfCode 1#3 = .C ∧ r8OfCode 2#3 = .D ∧ r8OfCode 3#3 = .E ∧ r8OfCode 4#3 = .H ∧
  r8OfCode 5#3 = .L ∧ r8OfCode 6#3 = .HLind ∧ r8OfCode 7#3 = .A

/-- R61 and R64 (decided: D6): BC, DE, HL, SP are 0 to 3, PC has no code among them, and a flag's code is its bit
position in F. -/
def Obligations.PairAndFlagCodes : Prop :=
  r16OfCode 0#3 = .reg .BC ∧ r16OfCode 1#3 = .reg .DE ∧ r16OfCode 2#3 = .reg .HL ∧ r16OfCode 3#3 = .reg .SP ∧
  (∀ c : BitVec 2, r16OfCode (c.setWidth 3) ≠ .reg .PC) ∧
  flagOfCode 0#2 = .Z ∧ flagOfCode 1#2 = .N ∧ flagOfCode 2#2 = .H ∧ flagOfCode 3#2 = .C ∧
  (∀ c : BitVec 2, bitpos (flagOfCode c) = c.toNat)

/-- R63 (decided: D4): port code 4 is PC; codes 5, 6, 7 decode to `Reserved16(c)`, on which GET16, SET16, GET and SET
raise UnsupportedRegister. -/
def Obligations.ReservedSixteenBitCodesNameNoRegister : Prop :=
  r16OfCode 0#3 = .reg .BC ∧ r16OfCode 1#3 = .reg .DE ∧ r16OfCode 2#3 = .reg .HL ∧ r16OfCode 3#3 = .reg .SP ∧
  r16OfCode 4#3 = .reg .PC ∧
  ∀ c ∈ [5#3, 6#3, 7#3], r16OfCode c = .reserved c ∧
    ∀ (v : Word) (s : State),
      exec (.get16 (.reserved c)) s = .next { s with response := .error .unsupportedRegister } ∧
      exec (.set16 (.reserved c) v) s = .next { s with response := .error .unsupportedRegister } ∧
      exec (.get (.r16 (.reserved c))) s = .next { s with response := .error .unsupportedRegister } ∧
      exec (.set (.r16 (.reserved c)) (.v16 v)) s = .next { s with response := .error .unsupportedRegister }

/-- Words written out from the formats of R68 decode to what they stand for; illegal words do not decode. The register
codes are those of section 1 of spec/30_encoding.md; that code 1 is C, in the word of SET8 C, is an inference the spec
marks as its own there (log 8). The names of the two errors are the model's choice (log 5). -/
def Obligations.WrittenOutWordsDecode : Prop :=
  decode 0b00000111#8 0x0000#16 false = .ok (.get8 .A) ∧
  decode 0b00010001#8 0x00AB#16 false = .ok (.set8 .C 0xAB#8) ∧
  decode 0b00100100#8 0x0000#16 false = .ok (.get16 (.reg .PC)) ∧
  decode 0b00110000#8 0x1234#16 false = .ok (.set16 (.reg .BC) 0x1234#16) ∧
  decode 0b01000011#8 0x0000#16 false = .ok (.getf .C) ∧
  decode 0b01010000#8 0x0001#16 false = .ok (.setf .Z true) ∧
  decode 0b01100110#8 0x0000#16 false = .ok (.get (.r8 .HLind)) ∧
  decode 0b01111100#8 0x0100#16 true = .ok (.set (.r16 (.reg .PC)) (.v16 0x0100#16)) ∧
  decode 0b10000000#8 0x0000#16 false = .ok .dump ∧
  decode 0b10010000#8 0x0000#16 false = .error .reservedOp ∧
  decode 0b10000001#8 0x0000#16 false = .error .reservedSelBit

/-- spec/opcode_table.json: no command word is covered by two rows, and a word that decodes (with zero operands) is one
that the row of its command covers, and conversely. -/
def Obligations.DecoderAgreesWithOpcodeTable : Prop :=
  (opcodeTable.Pairwise fun a b => ∀ cmd : Byte, a.covers cmd = true → b.covers cmd = false) ∧
  ∀ row ∈ opcodeTable, ∀ cmd : Byte,
    row.covers cmd = true ↔ (decode cmd 0x0000#16 false).map opOf = .ok row.op

/-- The map of the command words (section 7 of spec/30_encoding.md, an inference the spec marks as its own), with zero
operands: every row of legal words by its first word, and the illegal words between them. -/
def Obligations.CommandMapOfAllWords : Prop :=
  (∀ c : BitVec 3,
    decode (0x00#8 + c.setWidth 8) 0x0000#16 false = .ok (.get8 (r8OfCode c)) ∧
    decode (0x10#8 + c.setWidth 8) 0x0000#16 false = .ok (.set8 (r8OfCode c) 0x00#8) ∧
    decode (0x20#8 + c.setWidth 8) 0x0000#16 false = .ok (.get16 (r16OfCode c)) ∧
    decode (0x30#8 + c.setWidth 8) 0x0000#16 false = .ok (.set16 (r16OfCode c) 0x0000#16) ∧
    decode (0x60#8 + c.setWidth 8) 0x0000#16 false = .ok (.get (.r8 (r8OfCode c))) ∧
    decode (0x68#8 + c.setWidth 8) 0x0000#16 false = .ok (.get (.r16 (r16OfCode c))) ∧
    decode (0x70#8 + c.setWidth 8) 0x0000#16 false = .ok (.set (.r8 (r8OfCode c)) (.v8 0x00#8)) ∧
    decode (0x78#8 + c.setWidth 8) 0x0000#16 false = .ok (.set (.r16 (r16OfCode c)) (.v8 0x00#8))) ∧
  (∀ c : BitVec 2,
    decode (0x40#8 + c.setWidth 8) 0x0000#16 false = .ok (.getf (flagOfCode c)) ∧
    decode (0x50#8 + c.setWidth 8) 0x0000#16 false = .ok (.setf (flagOfCode c) false)) ∧
  decode 0x80#8 0x0000#16 false = .ok .dump ∧
  (∀ cmd : Byte,
    (0x08#8 ≤ cmd ∧ cmd ≤ 0x0F#8) ∨ (0x18#8 ≤ cmd ∧ cmd ≤ 0x1F#8) ∨ (0x28#8 ≤ cmd ∧ cmd ≤ 0x2F#8) ∨
    (0x38#8 ≤ cmd ∧ cmd ≤ 0x3F#8) ∨ (0x44#8 ≤ cmd ∧ cmd ≤ 0x4F#8) ∨ (0x54#8 ≤ cmd ∧ cmd ≤ 0x5F#8) ∨ 0x81#8 ≤ cmd →
      ∃ e, decode cmd 0x0000#16 false = .error e)

/-- R69 and R203 (decided: D3, D8): the illegal commands are exactly those with a reserved `op`, a reserved bit of `sel`
set or a write operand wider than the command takes; each responds IllegalCommand (`err` = 3) and changes no field, and no
other command responds so. The reserved 16-bit codes are not illegal. -/
def Obligations.IllegalCommandsAreExactlyThese : Prop :=
  ∀ (s : State) (cmd : Byte) (wdata : Word) (wtag : Bool),
    let op := cmd.extractLsb' 4 4
    let illegal :=
      0x9#4 ≤ op ∨
      (op ≤ 0x3#4 ∧ cmd.getLsbD 3 = true) ∨
      ((op = 0x4#4 ∨ op = 0x5#4) ∧ (cmd.getLsbD 2 = true ∨ cmd.getLsbD 3 = true)) ∨
      (op = 0x8#4 ∧ cmd.extractLsb' 0 4 ≠ 0x0#4) ∨
      ((op = 0x1#4 ∨ (op = 0x7#4 ∧ wtag = false)) ∧ wdata.extractLsb' 8 8 ≠ 0x00#8) ∨
      (op = 0x5#4 ∧ wdata.extractLsb' 1 15 ≠ 0#15)
    (illegal → step (s.presenting ⟨cmd, wdata, wtag⟩) = .next { s with response := .error .illegalCommand }) ∧
    (¬ illegal → ∃ t, step (s.presenting ⟨cmd, wdata, wtag⟩) = .next t ∧ t.response ≠ .error .illegalCommand) ∧
    (Response.error .illegalCommand).wires.err = 3#2 ∧
    ∀ c ∈ [5#3, 6#3, 7#3],
      step (s.presenting ⟨joinCmd 0x2#4 (joinSel 0#1 c), wdata, wtag⟩) =
        .next { s with response := .error .unsupportedRegister } ∧
      step (s.presenting ⟨joinCmd 0x3#4 (joinSel 0#1 c), wdata, wtag⟩) =
        .next { s with response := .error .unsupportedRegister } ∧
      step (s.presenting ⟨joinCmd 0x6#4 (joinSel 1#1 c), wdata, wtag⟩) =
        .next { s with response := .error .unsupportedRegister } ∧
      step (s.presenting ⟨joinCmd 0x7#4 (joinSel 1#1 c), wdata, true⟩) =
        .next { s with response := .error .unsupportedRegister }

/-- Section 4 of spec/30_encoding.md (decided: D12, D13): write operands are taken from `wdata` whole, a `wdata` wider than
the operand makes the command illegal, the read commands and DUMP ignore `wdata` and `wtag`, and only SET reads `wtag`. The
name `wideOperand` of the illegal case is the model's choice and no rule of the spec (log 5). -/
def Obligations.WriteOperandsAreNeitherExtendedNorTruncated : Prop :=
  (∀ (c : BitVec 3) (wdata : Word) (wtag : Bool),
    decode (joinCmd 0x1#4 (joinSel 0#1 c)) wdata wtag =
      (if wdata.extractLsb' 8 8 = 0x00#8 then .ok (.set8 (r8OfCode c) (wdata.extractLsb' 0 8)) else .error .wideOperand) ∧
    decode (joinCmd 0x3#4 (joinSel 0#1 c)) wdata wtag = .ok (.set16 (r16OfCode c) wdata)) ∧
  (∀ (c : BitVec 2) (wdata : Word) (wtag : Bool),
    decode (joinCmd 0x5#4 (joinFlagSel 0#2 c)) wdata wtag =
      (if wdata.extractLsb' 1 15 = 0#15 then .ok (.setf (flagOfCode c) (wdata.getLsbD 0)) else .error .wideOperand)) ∧
  (∀ (t : Bool) (c : BitVec 3) (wdata : Word),
    decode (joinCmd 0x7#4 (joinSel (BitVec.ofBool t) c)) wdata false =
      (if wdata.extractLsb' 8 8 = 0x00#8 then .ok (.set (selectorOfCode t c) (.v8 (wdata.extractLsb' 0 8)))
       else .error .wideOperand) ∧
    decode (joinCmd 0x7#4 (joinSel (BitVec.ofBool t) c)) wdata true = .ok (.set (selectorOfCode t c) (.v16 wdata))) ∧
  (∀ (op : BitVec 4) (sel : BitVec 4) (wdata wdata' : Word) (wtag wtag' : Bool),
    op ∈ [0x0#4, 0x2#4, 0x4#4, 0x6#4, 0x8#4] → decode (joinCmd op sel) wdata wtag = decode (joinCmd op sel) wdata' wtag')

/-- The decoder undoes the encoder on every well-formed command, with every operand at every value. -/
def Obligations.DecodeUndoesEncode : Prop :=
  ∀ i : Instr, i.wellFormed = true → (encode i).decode = .ok i

/-- A command that decodes is well formed, and encodes to itself: its command word always, its `wdata` if it writes, its
`wtag` if it is SET. So every legal command word has one meaning and no bit of it is dropped. -/
def Obligations.EncodeUndoesDecode : Prop :=
  ∀ (c : CommandWord) (i : Instr), c.decode = .ok i →
    i.wellFormed = true ∧ (encode i).cmd = c.cmd ∧
    (opOf i ∈ [Op.set8, Op.set16, Op.setf, Op.set] → (encode i).wdata = c.wdata) ∧
    (opOf i = .set → (encode i).wtag = c.wtag)

/-- The assembler reads back the line that spells a command (section 8 of spec/30_encoding.md; log 7 for the characters
the spec leaves open). -/
def Obligations.AssemblerReadsBackEveryLine : Prop :=
  ∀ i : Instr, i.wellFormed = true →
    assemble (assemblyLine i) = some i ∧ assembleLine (assemblyLine i) = some (encode i)

/-- Lines of spec/95_test_vectors.md section 3 and the command words they stand for. -/
def Obligations.PublishedLinesAssemble : Prop :=
  assembleLine "set16 BC, 0x1234".toList = some ⟨0x30#8, 0x1234#16, false⟩ ∧
  assembleLine "set8 (HL), 0x55".toList = some ⟨0x16#8, 0x0055#16, false⟩ ∧
  assembleLine "get r8 (HL)".toList = some ⟨0x66#8, 0x0000#16, false⟩ ∧
  assembleLine "setf C, 1".toList = some ⟨0x53#8, 0x0001#16, false⟩ ∧
  assembleLine "set r8 A, v16 0x0010".toList = some ⟨0x77#8, 0x0010#16, true⟩ ∧
  assembleLine "set16 r16#5, 0x9999".toList = some ⟨0x35#8, 0x9999#16, false⟩ ∧
  assembleLine "dump".toList = some ⟨0x80#8, 0x0000#16, false⟩

/-! ## The response -/

/-- R72 and R73 (decided: D8, D10, D11): the response on the wires. -/
def Obligations.ResponseOnTheWires : Prop :=
  (∀ v : Byte, (Response.ok (.register (.v8 v))).wires = ⟨0#2, v.setWidth 16, false, 0#80⟩) ∧
  (∀ v : Word, (Response.ok (.register (.v16 v))).wires = ⟨0#2, v, true, 0#80⟩) ∧
  (Response.ok (.flag true)).wires = ⟨0#2, 0x0001#16, false, 0#80⟩ ∧
  (Response.ok (.flag false)).wires = ⟨0#2, 0x0000#16, false, 0#80⟩ ∧
  (Response.ok .noValue).wires = ⟨0#2, 0x0000#16, false, 0#80⟩ ∧
  (∀ v : Snapshot, (Response.ok (.snapshot v)).wires = ⟨0#2, 0x0000#16, false, v⟩) ∧
  (Response.error .unsupportedRegister).wires = ⟨1#2, 0x0000#16, false, 0#80⟩ ∧
  (Response.error .widthMismatch).wires = ⟨2#2, 0x0000#16, false, 0#80⟩ ∧
  (Response.error .illegalCommand).wires = ⟨3#2, 0x0000#16, false, 0#80⟩

/-! ## The commands -/

/-- R100: GET8 answers the named byte of the owning pair, or A; HLind is UnsupportedRegister. Nothing but the response
changes, whatever stands on `wdata` and `wtag`. -/
def Obligations.Get8AnswersNamedByte : Prop :=
  ∀ s : State,
    exec (.get8 .B) s = .next { s with response := .ok (.register (.v8 (s.bank.BC.extractLsb' 8 8))) } ∧
    exec (.get8 .C) s = .next { s with response := .ok (.register (.v8 (s.bank.BC.extractLsb' 0 8))) } ∧
    exec (.get8 .D) s = .next { s with response := .ok (.register (.v8 (s.bank.DE.extractLsb' 8 8))) } ∧
    exec (.get8 .E) s = .next { s with response := .ok (.register (.v8 (s.bank.DE.extractLsb' 0 8))) } ∧
    exec (.get8 .H) s = .next { s with response := .ok (.register (.v8 (s.bank.HL.extractLsb' 8 8))) } ∧
    exec (.get8 .L) s = .next { s with response := .ok (.register (.v8 (s.bank.HL.extractLsb' 0 8))) } ∧
    exec (.get8 .A) s = .next { s with response := .ok (.register (.v8 s.bank.A)) } ∧
    exec (.get8 .HLind) s = .next { s with response := .error .unsupportedRegister } ∧
    (∀ (c : BitVec 3) (wdata : Word) (wtag : Bool),
      step (s.presenting ⟨joinCmd 0x0#4 (joinSel 0#1 c), wdata, wtag⟩) = exec (.get8 (r8OfCode c)) s) ∧
    (∀ v : Byte, (Response.ok (.register (.v8 v))).wires = ⟨0#2, v.setWidth 16, false, 0#80⟩)

/-- R101: SET8 replaces exactly the named byte by a masked merge; HLind is UnsupportedRegister; a `wdata` with a high bit
is IllegalCommand. Every other field stays. -/
def Obligations.Set8ReplacesNamedByte : Prop :=
  ∀ (s : State) (v : Byte),
    exec (.set8 .B v) s = .next { s with
      bank := { s.bank with BC := (s.bank.BC &&& 0x00FF#16) ||| (v.setWidth 16 <<< 8) }, response := .ok .noValue } ∧
    exec (.set8 .C v) s = .next { s with
      bank := { s.bank with BC := (s.bank.BC &&& 0xFF00#16) ||| v.setWidth 16 }, response := .ok .noValue } ∧
    exec (.set8 .D v) s = .next { s with
      bank := { s.bank with DE := (s.bank.DE &&& 0x00FF#16) ||| (v.setWidth 16 <<< 8) }, response := .ok .noValue } ∧
    exec (.set8 .E v) s = .next { s with
      bank := { s.bank with DE := (s.bank.DE &&& 0xFF00#16) ||| v.setWidth 16 }, response := .ok .noValue } ∧
    exec (.set8 .H v) s = .next { s with
      bank := { s.bank with HL := (s.bank.HL &&& 0x00FF#16) ||| (v.setWidth 16 <<< 8) }, response := .ok .noValue } ∧
    exec (.set8 .L v) s = .next { s with
      bank := { s.bank with HL := (s.bank.HL &&& 0xFF00#16) ||| v.setWidth 16 }, response := .ok .noValue } ∧
    exec (.set8 .A v) s = .next { s with bank := { s.bank with A := v }, response := .ok .noValue } ∧
    exec (.set8 .HLind v) s = .next { s with response := .error .unsupportedRegister } ∧
    (∀ (c : BitVec 3) (wdata : Word) (wtag : Bool),
      (wdata = v.setWidth 16 → step (s.presenting ⟨joinCmd 0x1#4 (joinSel 0#1 c), wdata, wtag⟩) = exec (.set8 (r8OfCode c) v) s) ∧
      (wdata.extractLsb' 8 8 ≠ 0x00#8 →
        step (s.presenting ⟨joinCmd 0x1#4 (joinSel 0#1 c), wdata, wtag⟩) = .next { s with response := .error .illegalCommand })) ∧
    (Response.ok .noValue).wires = ⟨0#2, 0x0000#16, false, 0#80⟩

/-- R110: GET16 answers the named register whole; a reserved code is UnsupportedRegister. Nothing but the response
changes. -/
def Obligations.Get16AnswersNamedWord : Prop :=
  ∀ s : State,
    exec (.get16 (.reg .BC)) s = .next { s with response := .ok (.register (.v16 s.bank.BC)) } ∧
    exec (.get16 (.reg .DE)) s = .next { s with response := .ok (.register (.v16 s.bank.DE)) } ∧
    exec (.get16 (.reg .HL)) s = .next { s with response := .ok (.register (.v16 s.bank.HL)) } ∧
    exec (.get16 (.reg .SP)) s = .next { s with response := .ok (.register (.v16 s.bank.SP)) } ∧
    exec (.get16 (.reg .PC)) s = .next { s with response := .ok (.register (.v16 s.bank.PC)) } ∧
    (∀ c, exec (.get16 (.reserved c)) s = .next { s with response := .error .unsupportedRegister }) ∧
    (∀ (c : BitVec 3) (wdata : Word) (wtag : Bool),
      step (s.presenting ⟨joinCmd 0x2#4 (joinSel 0#1 c), wdata, wtag⟩) = exec (.get16 (r16OfCode c)) s) ∧
    (∀ v : Word, (Response.ok (.register (.v16 v))).wires = ⟨0#2, v, true, 0#80⟩)

/-- R111: SET16 replaces exactly the named register, both halves of a pair at once, with any value; a reserved code is
UnsupportedRegister; what is written is read back. -/
def Obligations.Set16ReplacesNamedWord : Prop :=
  ∀ (s : State) (v : Word),
    exec (.set16 (.reg .BC) v) s = .next { s with bank := { s.bank with BC := v }, response := .ok .noValue } ∧
    exec (.set16 (.reg .DE) v) s = .next { s with bank := { s.bank with DE := v }, response := .ok .noValue } ∧
    exec (.set16 (.reg .HL) v) s = .next { s with bank := { s.bank with HL := v }, response := .ok .noValue } ∧
    exec (.set16 (.reg .SP) v) s = .next { s with bank := { s.bank with SP := v }, response := .ok .noValue } ∧
    exec (.set16 (.reg .PC) v) s = .next { s with bank := { s.bank with PC := v }, response := .ok .noValue } ∧
    (∀ c, exec (.set16 (.reserved c) v) s = .next { s with response := .error .unsupportedRegister }) ∧
    (∀ (c : BitVec 3) (wtag : Bool),
      step (s.presenting ⟨joinCmd 0x3#4 (joinSel 0#1 c), v, wtag⟩) = exec (.set16 (r16OfCode c) v) s) ∧
    (∀ r : Register16, ∃ t, exec (.set16 (.reg r) v) s = .next t ∧
      exec (.get16 (.reg r)) t = .next { t with response := .ok (.register (.v16 v)) }) ∧
    (Response.ok .noValue).wires = ⟨0#2, 0x0000#16, false, 0#80⟩

/-- R120: GET is GET8 or GET16 as its selector says, so its result has the width of the selector; it never raises
WidthMismatch and changes nothing but the response. -/
def Obligations.GetAnswersAtSelectorWidth : Prop :=
  ∀ s : State,
    (∀ r, exec (.get (.r8 r)) s = exec (.get8 r) s) ∧
    (∀ r, exec (.get (.r16 r)) s = exec (.get16 r) s) ∧
    (∀ r, r ≠ .HLind → ∃ v, exec (.get (.r8 r)) s = .next { s with response := .ok (.register (.v8 v)) }) ∧
    (∀ r, ∃ v, exec (.get (.r16 (.reg r))) s = .next { s with response := .ok (.register (.v16 v)) }) ∧
    exec (.get (.r8 .HLind)) s = .next { s with response := .error .unsupportedRegister } ∧
    (∀ c, exec (.get (.r16 (.reserved c))) s = .next { s with response := .error .unsupportedRegister }) ∧
    (∀ (c : BitVec 3) (wdata : Word) (wtag : Bool),
      step (s.presenting ⟨joinCmd 0x6#4 (joinSel 0#1 c), wdata, wtag⟩) = exec (.get (.r8 (r8OfCode c))) s ∧
      step (s.presenting ⟨joinCmd 0x6#4 (joinSel 1#1 c), wdata, wtag⟩) = exec (.get (.r16 (r16OfCode c))) s) ∧
    (∀ v : Byte, (Response.ok (.register (.v8 v))).wires = ⟨0#2, v.setWidth 16, false, 0#80⟩) ∧
    (∀ v : Word, (Response.ok (.register (.v16 v))).wires = ⟨0#2, v, true, 0#80⟩)

/-- R121: SET is SET8 or SET16 when the value has the selector's width, and completes on every selector with storage;
otherwise it raises WidthMismatch, before the register is looked at, and changes nothing. -/
def Obligations.SetWritesOnWidthMatchOnly : Prop :=
  ∀ s : State,
    (∀ r v, exec (.set (.r8 r) (.v8 v)) s = exec (.set8 r v) s) ∧
    (∀ r v, exec (.set (.r16 r) (.v16 v)) s = exec (.set16 r v) s) ∧
    (∀ r v, r ≠ .HLind → ∃ b, exec (.set (.r8 r) (.v8 v)) s = .next { s with bank := b, response := .ok .noValue }) ∧
    (∀ r v, ∃ b, exec (.set (.r16 (.reg r)) (.v16 v)) s = .next { s with bank := b, response := .ok .noValue }) ∧
    (∀ r v, exec (.set (.r8 r) (.v16 v)) s = .next { s with response := .error .widthMismatch }) ∧
    (∀ r v, exec (.set (.r16 r) (.v8 v)) s = .next { s with response := .error .widthMismatch }) ∧
    (∀ v, exec (.set (.r8 .HLind) (.v8 v)) s = .next { s with response := .error .unsupportedRegister }) ∧
    (∀ c v, exec (.set (.r16 (.reserved c)) (.v16 v)) s = .next { s with response := .error .unsupportedRegister }) ∧
    (∀ (t : Bool) (c : BitVec 3) (wdata : Word),
      step (s.presenting ⟨joinCmd 0x7#4 (joinSel (BitVec.ofBool t) c), wdata, true⟩) =
        exec (.set (selectorOfCode t c) (.v16 wdata)) s ∧
      (∀ v : Byte, step (s.presenting ⟨joinCmd 0x7#4 (joinSel (BitVec.ofBool t) c), v.setWidth 16, false⟩) =
        exec (.set (selectorOfCode t c) (.v8 v)) s) ∧
      (wdata.extractLsb' 8 8 ≠ 0x00#8 → step (s.presenting ⟨joinCmd 0x7#4 (joinSel (BitVec.ofBool t) c), wdata, false⟩) =
        .next { s with response := .error .illegalCommand })) ∧
    (Response.ok .noValue).wires = ⟨0#2, 0x0000#16, false, 0#80⟩

/-- R130: GETF answers the named flag's bit of F and changes nothing but the response. -/
def Obligations.GetfAnswersNamedFlag : Prop :=
  ∀ s : State,
    exec (.getf .Z) s = .next { s with response := .ok (.flag (s.bank.F.getLsbD 0)) } ∧
    exec (.getf .N) s = .next { s with response := .ok (.flag (s.bank.F.getLsbD 1)) } ∧
    exec (.getf .H) s = .next { s with response := .ok (.flag (s.bank.F.getLsbD 2)) } ∧
    exec (.getf .C) s = .next { s with response := .ok (.flag (s.bank.F.getLsbD 3)) } ∧
    (∀ (c : BitVec 2) (wdata : Word) (wtag : Bool),
      step (s.presenting ⟨joinCmd 0x4#4 (joinFlagSel 0#2 c), wdata, wtag⟩) = exec (.getf (flagOfCode c)) s) ∧
    (∀ (hi c : BitVec 2) (wdata : Word) (wtag : Bool), hi ≠ 0#2 →
      step (s.presenting ⟨joinCmd 0x4#4 (joinFlagSel hi c), wdata, wtag⟩) = .next { s with response := .error .illegalCommand }) ∧
    (Response.ok (.flag true)).wires = ⟨0#2, 0x0001#16, false, 0#80⟩ ∧
    (Response.ok (.flag false)).wires = ⟨0#2, 0x0000#16, false, 0#80⟩

/-- R131: SETF writes exactly the named flag's bit of F; the other flags and F[7:4] are kept bit for bit, and so is every
other field. -/
def Obligations.SetfWritesNamedBitOnly : Prop :=
  ∀ s : State,
    (∀ (f : Flag) (b : Bool), ∃ F : Byte,
      exec (.setf f b) s = .next { s with bank := { s.bank with F := F }, response := .ok .noValue } ∧
      ∀ i, i < 8 → F.getLsbD i = if i = bitpos f then b else s.bank.F.getLsbD i) ∧
    exec (.setf .Z true) s = .next { s with bank := { s.bank with F := s.bank.F ||| 0x01#8 }, response := .ok .noValue } ∧
    exec (.setf .N true) s = .next { s with bank := { s.bank with F := s.bank.F ||| 0x02#8 }, response := .ok .noValue } ∧
    exec (.setf .H true) s = .next { s with bank := { s.bank with F := s.bank.F ||| 0x04#8 }, response := .ok .noValue } ∧
    exec (.setf .C true) s = .next { s with bank := { s.bank with F := s.bank.F ||| 0x08#8 }, response := .ok .noValue } ∧
    exec (.setf .Z false) s = .next { s with bank := { s.bank with F := s.bank.F &&& 0xFE#8 }, response := .ok .noValue } ∧
    exec (.setf .N false) s = .next { s with bank := { s.bank with F := s.bank.F &&& 0xFD#8 }, response := .ok .noValue } ∧
    exec (.setf .H false) s = .next { s with bank := { s.bank with F := s.bank.F &&& 0xFB#8 }, response := .ok .noValue } ∧
    exec (.setf .C false) s = .next { s with bank := { s.bank with F := s.bank.F &&& 0xF7#8 }, response := .ok .noValue } ∧
    (∀ (c : BitVec 2) (b : Bool) (wtag : Bool),
      step (s.presenting ⟨joinCmd 0x5#4 (joinFlagSel 0#2 c), (BitVec.ofBool b).setWidth 16, wtag⟩) = exec (.setf (flagOfCode c) b) s) ∧
    (∀ (hi c : BitVec 2) (wdata : Word) (wtag : Bool), hi ≠ 0#2 ∨ wdata.extractLsb' 1 15 ≠ 0#15 →
      step (s.presenting ⟨joinCmd 0x5#4 (joinFlagSel hi c), wdata, wtag⟩) = .next { s with response := .error .illegalCommand }) ∧
    (Response.ok .noValue).wires = ⟨0#2, 0x0000#16, false, 0#80⟩

/-- R140 (decided: D19): DUMP answers one snapshot whose fields are PC, F, A, BC, DE and HL in that order, and changes
nothing but the response; every other command leaves `snap` at 0. -/
def Obligations.DumpAnswersSnapshotOfSixFields : Prop :=
  ∀ s : State,
    (∃ snap : Snapshot, exec .dump s = .next { s with response := .ok (.snapshot snap) } ∧
      snap.extractLsb' 64 16 = s.bank.PC ∧ snap.extractLsb' 56 8 = s.bank.F ∧ snap.extractLsb' 48 8 = s.bank.A ∧
      snap.extractLsb' 32 16 = s.bank.BC ∧ snap.extractLsb' 16 16 = s.bank.DE ∧ snap.extractLsb' 0 16 = s.bank.HL ∧
      (Response.ok (.snapshot snap)).wires = ⟨0#2, 0x0000#16, false, snap⟩) ∧
    (∀ i t, i ≠ .dump → exec i s = .next t → t.response.wires.snap = 0#80) ∧
    (∀ (wdata : Word) (wtag : Bool), step (s.presenting ⟨0x80#8, wdata, wtag⟩) = exec .dump s) ∧
    (∀ (sel : BitVec 4) (wdata : Word) (wtag : Bool), sel ≠ 0x0#4 →
      step (s.presenting ⟨joinCmd 0x8#4 sel, wdata, wtag⟩) = .next { s with response := .error .illegalCommand })

/-- R141 (decided: D19 for the separators and the missing newline): the text of the dump is the six fields in order, each
`<n bits>` being n characters `0` and `1`, most significant bit first, 107 characters in all. -/
def Obligations.DumpTextHasFixedFormat : Prop :=
  (∀ b : Bank, b.render = String.ofList ("PC: ".toList ++ binary 16 b.PC ++ " F: ".toList ++ binary 8 b.F ++ " A: ".toList ++
      binary 8 b.A ++ " BC: ".toList ++ binary 16 b.BC ++ " DE: ".toList ++ binary 16 b.DE ++ " HL: ".toList ++
      binary 16 b.HL) ∧ b.renderChars.length = 107) ∧
  (∀ (n : Nat) (v : BitVec n), (binary n v).length = n ∧
    ∀ i, i < n → (binary n v)[i]? = some (if v.getLsbD (n - 1 - i) then '1' else '0'))

/-! ## Errors -/

/-- R204 (decided: D9): IllegalCommand comes before WidthMismatch, and WidthMismatch before UnsupportedRegister. -/
def Obligations.ErrorPriority : Prop :=
  ∀ (s : State) (sel : BitVec 4) (wdata : Word),
    (wdata.extractLsb' 8 8 ≠ 0x00#8 →
      step (s.presenting ⟨joinCmd 0x7#4 sel, wdata, false⟩) = .next { s with response := .error .illegalCommand }) ∧
    step (s.presenting ⟨0x76#8, wdata, true⟩) = .next { s with response := .error .widthMismatch } ∧
    (∀ c ∈ [0x7D#8, 0x7E#8, 0x7F#8], wdata.extractLsb' 8 8 = 0x00#8 →
      step (s.presenting ⟨c, wdata, false⟩) = .next { s with response := .error .widthMismatch }) ∧
    (wdata.extractLsb' 8 8 ≠ 0x00#8 → ∀ wtag : Bool,
      step (s.presenting ⟨0x16#8, wdata, wtag⟩) = .next { s with response := .error .illegalCommand })

/-- R201 (decided: D4): UnsupportedRegister is raised by exactly these commands (an illegal operand of 0x16 and 0x76 is
IllegalCommand by R204). -/
def Obligations.UnsupportedRegisterExactlyWhere : Prop :=
  ∀ (s : State) (cmd : Byte) (wdata : Word) (wtag : Bool),
    ∃ t, step (s.presenting ⟨cmd, wdata, wtag⟩) = .next t ∧
      (t.response = .error .unsupportedRegister ↔
        cmd = 0x06#8 ∨ (cmd = 0x16#8 ∧ wdata.extractLsb' 8 8 = 0x00#8) ∨ cmd = 0x66#8 ∨
        (cmd = 0x76#8 ∧ wtag = false ∧ wdata.extractLsb' 8 8 = 0x00#8) ∨
        (0x25#8 ≤ cmd ∧ cmd ≤ 0x27#8) ∨ (0x35#8 ≤ cmd ∧ cmd ≤ 0x37#8) ∨ (0x6D#8 ≤ cmd ∧ cmd ≤ 0x6F#8) ∨
        (0x7D#8 ≤ cmd ∧ cmd ≤ 0x7F#8 ∧ wtag = true))

/-- R202: WidthMismatch is raised only by SET, exactly when the selector is 8-bit and `wtag = 1`, or the selector is
16-bit and `wtag = 0` with a byte operand. -/
def Obligations.WidthMismatchExactlyWhere : Prop :=
  ∀ (s : State) (cmd : Byte) (wdata : Word) (wtag : Bool),
    ∃ t, step (s.presenting ⟨cmd, wdata, wtag⟩) = .next t ∧
      (t.response = .error .widthMismatch ↔
        cmd.extractLsb' 4 4 = 0x7#4 ∧
          ((cmd.getLsbD 3 = false ∧ wtag = true) ∨
           (cmd.getLsbD 3 = true ∧ wtag = false ∧ wdata.extractLsb' 8 8 = 0x00#8)))

/-- R205 and R206 (decided: D10): a step that ends in an error leaves all seven fields as they were, its response carries
no value, and the same command again gives the same error. -/
def Obligations.ErrorsChangeNothingAndRepeat : Prop :=
  ∀ (s : State) (c : CommandWord), ∃ t, step (s.presenting c) = .next t ∧
    ∀ e, t.response = .error e → t.bank = s.bank ∧ t.response.wires = ⟨e.code, 0x0000#16, false, 0#80⟩ ∧ e.code ≠ 0#2 ∧
      step (t.presenting c) = .next t

/-! ## What a command leaves alone -/

/-- R24: no command that names HLind succeeds or aliases another register: each one changes nothing but the response,
which is an error. -/
def Obligations.MemoryIndirectIdentifierNeverSucceeds : Prop :=
  ∀ (s : State) (v : Byte) (w : Word),
    exec (.get8 .HLind) s = .next { s with response := .error .unsupportedRegister } ∧
    exec (.set8 .HLind v) s = .next { s with response := .error .unsupportedRegister } ∧
    exec (.get (.r8 .HLind)) s = .next { s with response := .error .unsupportedRegister } ∧
    exec (.set (.r8 .HLind) (.v8 v)) s = .next { s with response := .error .unsupportedRegister } ∧
    exec (.set (.r8 .HLind) (.v16 w)) s = .next { s with response := .error .widthMismatch }

/-- GET8, GET16, GET, GETF and DUMP change no field of the bank (section 2 of spec/20_memory.md and R49, an inference
the spec marks as its own). -/
def Obligations.ReadCommandsLeaveBankUnchanged : Prop :=
  ∀ (i : Instr) (s : State), opOf i ∈ [Op.get8, Op.get16, Op.get, Op.getf, Op.dump] →
    ∃ r, exec i s = .next { s with response := r }

/-- Issuing a command again at once gives the same response and leaves the same state (section 3 of spec/20_memory.md,
an inference the spec marks as its own). -/
def Obligations.EveryCommandIsIdempotent : Prop :=
  ∀ (i : Instr) (s : State), ∃ t, exec i s = .next t ∧ exec i t = .next t

/-- The frame of SET8 (section 1 of spec/10_state.md): after SET8 of a register with storage, that register reads the value written, every
other 8-bit register reads as before, and F, SP, PC and the caller's stream are unchanged. -/
def Obligations.Set8LeavesOtherRegistersAlone : Prop :=
  ∀ (s : State) (r : Register8) (v : Byte), r ≠ .HLind →
    ∃ t, exec (.set8 r v) s = .next t ∧ t.bank.read8 r = .ok v ∧
      (∀ q, q ≠ r → t.bank.read8 q = s.bank.read8 q) ∧
      t.bank.F = s.bank.F ∧ t.bank.SP = s.bank.SP ∧ t.bank.PC = s.bank.PC ∧ t.pending = s.pending

/-- The frame of SET16: after SET16 of one of the five registers, that register reads the value written, every other
16-bit register reads as before, and A, F and the caller's stream are unchanged. -/
def Obligations.Set16LeavesOtherRegistersAlone : Prop :=
  ∀ (s : State) (r : Register16) (v : Word),
    ∃ t, exec (.set16 (.reg r) v) s = .next t ∧ t.bank.read16 (.reg r) = .ok v ∧
      (∀ q, q ≠ r → t.bank.read16 (.reg q) = s.bank.read16 (.reg q)) ∧
      t.bank.A = s.bank.A ∧ t.bank.F = s.bank.F ∧ t.pending = s.pending

/-- R32: setting flag f makes GETF of f answer the value set, and never changes what GETF of another flag answers. -/
def Obligations.FlagsAreIndependent : Prop :=
  ∀ (s : State) (f : Flag) (b : Bool),
    ∃ t, exec (.setf f b) s = .next t ∧
      exec (.getf f) t = .next { t with response := .ok (.flag b) } ∧
      ∀ g, g ≠ f → ∃ x, exec (.getf g) s = .next { s with response := .ok (.flag x) } ∧
        exec (.getf g) t = .next { t with response := .ok (.flag x) }

/-- R45: two halves written in either order leave the same pair value; indeed any two different 8-bit registers do. -/
def Obligations.HalfWritesCommute : Prop :=
  ∀ (s : State) (r q : Register8) (v w : Byte), r ≠ q →
    ∃ t t' u u', exec (.set8 r v) s = .next t ∧ exec (.set8 q w) t = .next u ∧
      exec (.set8 q w) s = .next t' ∧ exec (.set8 r v) t' = .next u' ∧ u.bank = u'.bank

/-- Reading an 8-bit register and writing the value back leaves the whole bank unchanged (R37's first invariant). -/
def Obligations.WriteBackOfReadValueChangesNothing : Prop :=
  ∀ (s : State) (r : Register8), r ≠ .HLind →
    ∃ v, exec (.get8 r) s = .next { s with response := .ok (.register (.v8 v)) } ∧
      exec (.set8 r v) s = .next { s with response := .ok .noValue }

/-- Mixed-width access through BC, DE and HL (section 2 of spec/20_memory.md, an inference the spec marks as its own): a
16-bit read after an 8-bit write sees the byte in its place, an 8-bit read after a 16-bit write sees its byte of the
word. -/
def Obligations.MixedWidthAccessSharesStorage : Prop :=
  ∀ (s : State) (hi lo : Register8) (pair : Register16),
    (hi, lo, pair) ∈ [(Register8.B, Register8.C, Register16.BC), (.D, .E, .DE), (.H, .L, .HL)] →
    (∀ (v : Byte) (before : Word), s.bank.read16 (.reg pair) = .ok before →
      (∃ t, exec (.set8 hi v) s = .next t ∧ exec (.get16 (.reg pair)) t =
        .next { t with response := .ok (.register (.v16 (v ++ before.extractLsb' 0 8))) }) ∧
      (∃ t, exec (.set8 lo v) s = .next t ∧ exec (.get16 (.reg pair)) t =
        .next { t with response := .ok (.register (.v16 (before.extractLsb' 8 8 ++ v))) })) ∧
    (∀ w : Word, ∃ t, exec (.set16 (.reg pair) w) s = .next t ∧
      exec (.get8 hi) t = .next { t with response := .ok (.register (.v8 (w.extractLsb' 8 8))) } ∧
      exec (.get8 lo) t = .next { t with response := .ok (.register (.v8 (w.extractLsb' 0 8))) })

/-- R43: a pair is its first-named half, then its second: what GET16 answers is what GET8 of the two halves answers, the
first in the high byte. -/
def Obligations.PairIsHighByteThenLowByte : Prop :=
  ∀ (s : State) (hi lo : Register8) (pair : Register16),
    (hi, lo, pair) ∈ [(Register8.B, Register8.C, Register16.BC), (.D, .E, .DE), (.H, .L, .HL)] →
    ∃ h l : Byte, exec (.get8 hi) s = .next { s with response := .ok (.register (.v8 h)) } ∧
      exec (.get8 lo) s = .next { s with response := .ok (.register (.v8 l)) } ∧
      exec (.get16 (.reg pair)) s = .next { s with response := .ok (.register (.v16 (h ++ l))) }

/-- R21: writing A changes no other field, and a command that writes anything else changes no bit of A. -/
def Obligations.AccumulatorIsIndependent : Prop :=
  (∀ (s : State) (v : Byte),
    exec (.set8 .A v) s = .next { s with bank := { s.bank with A := v }, response := .ok .noValue } ∧
    exec (.set (.r8 .A) (.v8 v)) s = .next { s with bank := { s.bank with A := v }, response := .ok .noValue }) ∧
  (∀ (i : Instr) (s : State), (∀ v, i ≠ .set8 .A v) → (∀ v, i ≠ .set (.r8 .A) (.v8 v)) →
    ∃ t, exec i s = .next t ∧ t.bank.A = s.bank.A)

/-- SP and PC change only by SET16 naming them, by SET with their selector and a 16-bit value, or by reset (sections 1
and 2 of spec/10_state.md; the rule for PC is an inference the spec marks as its own). -/
def Obligations.WholeWordRegistersChangeOnlyByWholeWrites : Prop :=
  ∀ (s : State) (r : Register16), r = .SP ∨ r = .PC →
    ∃ t, step s = .next t ∧
      (t.bank.read16 (.reg r) ≠ s.bank.read16 (.reg r) →
        s.nextInput.rst = true ∨
        (s.nextInput.cmdValid = true ∧ ∃ v, t.bank.read16 (.reg r) = .ok v ∧
          (decode s.nextInput.cmd s.nextInput.wdata s.nextInput.wtag = .ok (.set16 (.reg r) v) ∨
           decode s.nextInput.cmd s.nextInput.wdata s.nextInput.wtag = .ok (.set (.r16 (.reg r)) (.v16 v)))))

/-- A flag changes only by SETF naming it with the new value, or by reset (section 2 of spec/10_state.md, an inference
the spec marks as its own). -/
def Obligations.FlagsChangeOnlyBySetfOrReset : Prop :=
  ∀ (s : State) (f : Flag),
    ∃ t, step s = .next t ∧
      (readFlag f t.bank.F ≠ readFlag f s.bank.F →
        s.nextInput.rst = true ∨
        (s.nextInput.cmdValid = true ∧
          decode s.nextInput.cmd s.nextInput.wdata s.nextInput.wtag = .ok (.setf f (readFlag f t.bank.F))))

/-- R29 (decided: D7): no command writes F[7:4], reset sets them to 0, and only DUMP shows them. -/
def Obligations.ReservedFlagBitsAreUntouchedAndSeenOnlyByDump : Prop :=
  (∀ (i : Instr) (s : State), ∃ t, exec i s = .next t ∧ reservedBits t.bank.F = reservedBits s.bank.F) ∧
  reservedBits State.reset.bank.F = 0#4 ∧
  (∀ (i : Instr) (s : State) (F : Byte), i ≠ .dump → (∀ f, readFlag f F = readFlag f s.bank.F) →
    ∃ t t', exec i s = .next t ∧ exec i { s with bank := { s.bank with F := F } } = .next t' ∧
      t'.response = t.response)

/-- SP bears on nothing but SP: from two states that differ only in SP, any step that does not read SP gives the same
response, and the two banks again differ at most in SP (section 1 of spec/10_state.md; spec/95_test_vectors.md 2.6 for
DUMP). -/
def Obligations.StackPointerIsSeenOnlyByItsReaders : Prop :=
  ∀ (s : State) (sp : Word),
    ∃ t t', step s = .next t ∧ step { s with bank := { s.bank with SP := sp } } = .next t' ∧
      { t'.bank with SP := t.bank.SP } = t.bank ∧ t'.pending = t.pending ∧
      (decode s.nextInput.cmd s.nextInput.wdata s.nextInput.wtag ≠ .ok (.get16 (.reg .SP)) →
       decode s.nextInput.cmd s.nextInput.wdata s.nextInput.wtag ≠ .ok (.get (.r16 (.reg .SP))) →
        t'.response = t.response)

/-! ## Invariants and refinement -/

/-- The reset state meets the invariant: F[7:4] is 0 (section 2 of spec/10_state.md), and so is snap[63:60] of the response
it holds. The spec gives no output before the first step: that response is the model's deduction from the response of a
reset step, section 1 of spec/70_reset_and_hazards.md (log 2). -/
def Obligations.ResetMeetsInvariant : Prop := State.reset.Inv

/-- From every state that meets the invariant, a step gives a state that meets it: the reserved bits of F stay 0 and no
snapshot ever shows them otherwise. -/
def Obligations.EveryStepKeepsInvariant : Prop :=
  ∀ s t : State, s.Inv → step s = .next t → t.Inv

/-- The stored pairs and the packed flags byte behave as independent bytes, words and flags: one step of the machine is
one step of that view, from every state and for every input. -/
def Obligations.StepRefinesIndependentBytes : Prop :=
  ∀ s : State, ∃ t, step s = .next t ∧
    t.bank.view = (s.bank.view.step s.nextInput).1 ∧ t.response = (s.bank.view.step s.nextInput).2

/-- The view determines the stored state: two banks with the same view are the same bank. -/
def Obligations.ViewLosesNoState : Prop :=
  ∀ a b : Bank, a.view = b.view → a = b

/-- R50: a run performs the caller's stream in its order. After the inputs `ps` the bank is what the view gives after
`ps`, and the inputs after them are still to come. The input `p` that follows them is answered as the view after `ps`
answers it, so it observes the effect of every earlier input; and whatever inputs `qs` stand behind it, its response and
its effect are the same, so it observes none later. -/
def Obligations.RunPerformsStreamInOrder : Prop :=
  ∀ (b : Bank) (resp : Response) (ps qs : List PortInput),
    (∃ t, Sys2Proof.core.run ps.length { bank := b, pending := ps ++ qs, response := resp } = .next t ∧
      t.bank.view = b.view.stream ps ∧ t.pending = qs) ∧
    (∀ p : PortInput,
      ∃ t, Sys2Proof.core.run (ps ++ [p]).length { bank := b, pending := ps ++ [p] ++ qs, response := resp } = .next t ∧
        t.response = ((b.view.stream ps).step p).2 ∧
        t.bank.view = ((b.view.stream ps).step p).1 ∧ t.pending = qs)

end
end

