-- ==== Sys2Proof/Laws/Assembly.lean ====
section
/-! SUPPORT. The parts of an assembler line and their readers (spec/30_encoding.md R76): how a line falls into words, and
that each reader reads back what the matching name or literal spells. -/

namespace Sys2Proof.Machine

/-! ## Words -/

/-- A line without a space is one word. -/
theorem lineWords_word (w : List Char) (h : ' ' ∉ w) : lineWords w = [w] := by
  induction w with
  | nil => rfl
  | cons c cs ih =>
    simp only [List.mem_cons, not_or] at h
    simp [lineWords, ih h.2, Ne.symm h.1]

/-- A word ends at the first space. -/
theorem lineWords_append (w rest : List Char) (h : ' ' ∉ w) : lineWords (w ++ ' ' :: rest) = w :: lineWords rest := by
  induction w with
  | nil => simp [lineWords]
  | cons c cs ih =>
    simp only [List.mem_cons, not_or] at h
    simp [lineWords, ih h.2, Ne.symm h.1]

@[simp] theorem beforeComma_append (w : List Char) : beforeComma (w ++ [',']) = some w := by
  simp [beforeComma]

/-! ## Literals -/

@[simp] theorem digitValue_hexDigit : ∀ d : BitVec 4, digitValue (hexDigit d) = some d.toNat := by decide

theorem hexDigit_ne_space : ∀ d : BitVec 4, hexDigit d ≠ ' ' := by decide

theorem space_not_mem_hexByte (v : Byte) : ' ' ∉ hexByte v := by
  simp [hexByte, (hexDigit_ne_space _).symm]

theorem space_not_mem_hexWord (v : Word) : ' ' ∉ hexWord v := by
  simp [hexWord, (hexDigit_ne_space _).symm]

@[simp] theorem readByte_hexByte (v : Byte) : readByte (hexByte v) = some v := by
  have hv := v.isLt
  have hsum : 16 * (16 * 0 + (v.extractLsb' 4 4).toNat) + (v.extractLsb' 0 4).toNat = v.toNat := by
    simp only [BitVec.extractLsb'_toNat, Nat.shiftRight_eq_div_pow]
    omega
  simp only [readByte, hexByte, readHex, readDigits, digitValue_hexDigit, Option.bind_some, hsum]
  simp [hv]

@[simp] theorem readWord_hexWord (v : Word) : readWord (hexWord v) = some v := by
  have hv := v.isLt
  have hsum : 16 * (16 * (16 * (16 * 0 + (v.extractLsb' 12 4).toNat) + (v.extractLsb' 8 4).toNat) +
      (v.extractLsb' 4 4).toNat) + (v.extractLsb' 0 4).toNat = v.toNat := by
    simp only [BitVec.extractLsb'_toNat, Nat.shiftRight_eq_div_pow]
    omega
  simp only [readWord, hexWord, readHex, readDigits, digitValue_hexDigit, Option.bind_some, hsum]
  simp [hv]

@[simp] theorem readBit_bitName (b : Bool) : readBit (bitName b) = some b := by cases b <;> rfl

theorem space_not_mem_bitName (b : Bool) : ' ' ∉ bitName b := by cases b <;> decide

/-! ## Names -/

@[simp] theorem readRegister8_name (r : Register8) : readRegister8 (register8Name r) = some r := by cases r <;> rfl

theorem space_not_mem_register8Name (r : Register8) : ' ' ∉ register8Name r := by cases r <;> decide

theorem readRegister16_name (r : PortRegister16) (h : r.wellFormed = true) :
    readRegister16 (register16Name r) = some r := by
  cases r with
  | reg r => cases r <;> rfl
  | reserved c =>
    revert c
    decide

theorem space_not_mem_register16Name (r : PortRegister16) : ' ' ∉ register16Name r := by
  cases r with
  | reg r => cases r <;> decide
  | reserved c => simp [register16Name, (hexDigit_ne_space _).symm]

@[simp] theorem readFlagName_name (f : Flag) : readFlagName (flagName f) = some f := by cases f <;> rfl

theorem space_not_mem_flagName (f : Flag) : ' ' ∉ flagName f := by cases f <;> decide

end Sys2Proof.Machine
end

