-- ==== Sys2Proof/Laws/Bytes.lean ====
section
/-! SUPPORT. The byte halves of a pair and the bits of the flags byte: what each mask and shift of the model does, said
once (spec/20_memory.md R43, spec/40_access8.md R101, spec/43_flags.md R131). -/

namespace Sys2Proof.Machine

/-! ## The halves of a pair -/

section
variable (v w : Byte) (pair : Word)

/-- The bits of a pair that is written as its two halves. -/
theorem getLsbD_pair (i : Nat) : (v ++ w : Word).getLsbD i = if i < 8 then w.getLsbD i else v.getLsbD (i - 8) := by
  have h := BitVec.getLsbD_append (x := v) (y := w) (i := i)
  by_cases hi : i < 8 <;> simpa [hi] using h

@[simp] theorem highByte_append : highByte (v ++ w) = v := by
  refine BitVec.eq_of_getLsbD_eq fun i hi => ?_
  simp only [highByte, BitVec.getLsbD_extractLsb', getLsbD_pair]
  simp [hi]

@[simp] theorem lowByte_append : lowByte (v ++ w) = w := by
  refine BitVec.eq_of_getLsbD_eq fun i hi => ?_
  simp only [lowByte, BitVec.getLsbD_extractLsb', getLsbD_pair]
  simp [hi]

@[simp] theorem append_halves : (highByte pair ++ lowByte pair : Word) = pair := by
  refine BitVec.eq_of_getLsbD_eq fun i hi => ?_
  rw [getLsbD_pair]
  split
  · simp [lowByte, *]
  · rw [highByte, BitVec.getLsbD_extractLsb', show 8 + (i - 8) = i by omega]
    simp
    omega

/-- The masked merge into the high half is a concatenation. -/
theorem setHighByte_eq_append : setHighByte v pair = v ++ lowByte pair := by
  refine BitVec.eq_of_getLsbD_eq fun i hi => ?_
  rw [getLsbD_pair]
  interval_cases i <;> simp [setHighByte, lowByte]

/-- The masked merge into the low half is a concatenation. -/
theorem setLowByte_eq_append : setLowByte v pair = highByte pair ++ v := by
  refine BitVec.eq_of_getLsbD_eq fun i hi => ?_
  rw [getLsbD_pair]
  interval_cases i <;> simp [setLowByte, highByte]

@[simp] theorem highByte_setHighByte : highByte (setHighByte v pair) = v := by simp [setHighByte_eq_append]
@[simp] theorem lowByte_setHighByte : lowByte (setHighByte v pair) = lowByte pair := by simp [setHighByte_eq_append]
@[simp] theorem highByte_setLowByte : highByte (setLowByte v pair) = highByte pair := by simp [setLowByte_eq_append]
@[simp] theorem lowByte_setLowByte : lowByte (setLowByte v pair) = v := by simp [setLowByte_eq_append]

@[simp] theorem setHighByte_highByte : setHighByte (highByte pair) pair = pair := by simp [setHighByte_eq_append]
@[simp] theorem setLowByte_lowByte : setLowByte (lowByte pair) pair = pair := by simp [setLowByte_eq_append]

@[simp] theorem setHighByte_setHighByte : setHighByte v (setHighByte w pair) = setHighByte v pair := by
  simp [setHighByte_eq_append]
@[simp] theorem setLowByte_setLowByte : setLowByte v (setLowByte w pair) = setLowByte v pair := by
  simp [setLowByte_eq_append]

/-- Writing the two halves in either order gives one pair value. -/
theorem setLowByte_setHighByte : setLowByte w (setHighByte v pair) = setHighByte v (setLowByte w pair) := by
  simp [setHighByte_eq_append, setLowByte_eq_append]

end

/-! ## The bits of the flags byte -/

section
variable (f g : Flag) (b c : Bool) (F : Byte)

theorem bitpos_lt : bitpos f < 4 := by cases f <;> decide

theorem bitpos_injective : bitpos f = bitpos g ↔ f = g := by cases f <;> cases g <;> decide

/-- SETF's mask writes the one bit and keeps every other. -/
theorem getLsbD_writeFlag (i : Nat) (hi : i < 8) :
    (writeFlag f b F).getLsbD i = if i = bitpos f then b else F.getLsbD i := by
  cases f <;> cases b <;> interval_cases i <;> simp [writeFlag, flagMask, bitpos]

@[simp] theorem readFlag_writeFlag_same : readFlag f (writeFlag f b F) = b := by
  simp [readFlag, getLsbD_writeFlag f b F _ (Nat.lt_trans (bitpos_lt f) (by decide))]

theorem readFlag_writeFlag_of_ne (h : g ≠ f) : readFlag g (writeFlag f b F) = readFlag g F := by
  simp [readFlag, getLsbD_writeFlag f b F _ (Nat.lt_trans (bitpos_lt g) (by decide)), bitpos_injective, h]

@[simp] theorem reservedBits_writeFlag : reservedBits (writeFlag f b F) = reservedBits F := by
  cases f <;> cases b <;> (ext i hi; interval_cases i <;> simp [reservedBits, writeFlag, flagMask, bitpos])

@[simp] theorem writeFlag_writeFlag : writeFlag f b (writeFlag f c F) = writeFlag f b F := by
  refine BitVec.eq_of_getLsbD_eq fun i hi => ?_
  simp only [getLsbD_writeFlag _ _ _ i hi]
  split <;> rfl

end

end Sys2Proof.Machine
end

