-- ==== Sys2Proof/Laws/Decode.lean ====
section
/-! SUPPORT. The fields of a command word that is written as `op ‖ sel`, the selector codes and their inverses, and the
write operands: one lemma for each helper of the decoder (spec/30_encoding.md R60 to R70). -/

namespace Sys2Proof

/-! ## The fields of a command word -/

@[simp] theorem opField_joinCmd : ∀ op sel : BitVec 4, opField (joinCmd op sel) = op := by decide

@[simp] theorem selField_joinCmd : ∀ op sel : BitVec 4, selField (joinCmd op sel) = sel := by decide

@[simp] theorem registerCode_joinCmd : ∀ (op : BitVec 4) (t : BitVec 1) (c : BitVec 3),
    registerCode (joinCmd op (joinSel t c)) = c := by decide

@[simp] theorem selBit3_joinCmd : ∀ (op : BitVec 4) (t : BitVec 1) (c : BitVec 3),
    selBit3 (joinCmd op (joinSel t c)) = t.getLsbD 0 := by decide

@[simp] theorem flagField_joinCmd : ∀ (op : BitVec 4) (hi c : BitVec 2),
    flagField (joinCmd op (joinFlagSel hi c)) = c := by decide

@[simp] theorem flagSelReserved_joinCmd : ∀ (op : BitVec 4) (hi c : BitVec 2),
    flagSelReserved (joinCmd op (joinFlagSel hi c)) = (hi != 0#2) := by decide

/-- Every command word is its `op` and its `sel`. -/
theorem joinCmd_fields : ∀ cmd : Byte, joinCmd (opField cmd) (selField cmd) = cmd := by decide

/-- Every command word is its `op`, its bit 3 and its register code. -/
theorem joinCmd_registerFields : ∀ cmd : Byte,
    joinCmd (opField cmd) (joinSel (BitVec.ofBool (selBit3 cmd)) (registerCode cmd)) = cmd := by decide

/-- A command word whose reserved flag bits are 0 is its `op` and its flag code. -/
theorem joinCmd_flagFields : ∀ cmd : Byte, flagSelReserved cmd = false →
    joinCmd (opField cmd) (joinFlagSel 0#2 (flagField cmd)) = cmd := by decide

/-! ## Selector codes -/

@[simp] theorem r8OfCode_r8Code (r : Register8) : r8OfCode (r8Code r) = r := by cases r <;> rfl

theorem r8Code_r8OfCode : ∀ c : BitVec 3, r8Code (r8OfCode c) = c := by decide

theorem r16OfCode_r16Code (r : PortRegister16) (h : r.wellFormed = true) : r16OfCode (r16Code r) = r := by
  cases r with
  | reg r => cases r <;> rfl
  | reserved c =>
    revert c
    decide

theorem r16Code_r16OfCode : ∀ c : BitVec 3, r16Code (r16OfCode c) = c := by decide

theorem r16OfCode_wellFormed : ∀ c : BitVec 3, (r16OfCode c).wellFormed = true := by decide

@[simp] theorem flagOfCode_flagCode (f : Flag) : flagOfCode (flagCode f) = f := by cases f <;> rfl

theorem flagCode_flagOfCode : ∀ c : BitVec 2, flagCode (flagOfCode c) = c := by decide

/-! ## Write operands -/

@[simp] theorem isByteOperand_setWidth (v : Byte) : isByteOperand (v.setWidth 16) = true := by
  have h : (v.setWidth 16).extractLsb' 8 8 = 0#8 := by
    ext i h
    interval_cases i <;> simp
  simp [isByteOperand, h]

@[simp] theorem byteOperand_setWidth (v : Byte) : byteOperand (v.setWidth 16) = v := by
  refine BitVec.eq_of_getLsbD_eq fun i h => ?_
  simp [byteOperand, h]
  omega

@[simp] theorem isBitOperand_ofBool : ∀ b : Bool, isBitOperand ((BitVec.ofBool b).setWidth 16) = true := by decide

@[simp] theorem bitOperand_ofBool : ∀ b : Bool, bitOperand ((BitVec.ofBool b).setWidth 16) = b := by decide

/-- A `wdata` that is a byte is that byte widened: nothing is lost by taking `wdata[7:0]`. -/
theorem setWidth_byteOperand (wdata : Word) (h : isByteOperand wdata = true) : (byteOperand wdata).setWidth 16 = wdata := by
  have h' : wdata.extractLsb' 8 8 = 0#8 := by simpa [isByteOperand] using h
  have hb (i : Nat) (hi : i < 8) : wdata.getLsbD (8 + i) = false := by
    have := congrArg (fun x => BitVec.getLsbD x i) h'
    simpa [hi] using this
  ext i hi
  by_cases h8 : i < 8
  · simp [byteOperand, h8, BitVec.getLsbD_eq_getElem hi]
  · have := hb (i - 8) (by omega)
    rw [show 8 + (i - 8) = i by omega, BitVec.getLsbD_eq_getElem hi] at this
    simp [byteOperand, h8, this]

/-- A `wdata` that is one bit is that bit widened. -/
theorem setWidth_bitOperand (wdata : Word) (h : isBitOperand wdata = true) :
    (BitVec.ofBool (bitOperand wdata)).setWidth 16 = wdata := by
  have h' : wdata.extractLsb' 1 15 = 0#15 := by simpa [isBitOperand] using h
  have hb (i : Nat) (hi : i < 15) : wdata.getLsbD (1 + i) = false := by
    have := congrArg (fun x => BitVec.getLsbD x i) h'
    simpa [hi] using this
  ext i hi
  rcases Nat.eq_zero_or_pos i with rfl | hpos
  · simp [bitOperand]
  · have := hb (i - 1) (by omega)
    rw [show 1 + (i - 1) = i by omega, BitVec.getLsbD_eq_getElem hi] at this
    rw [this]
    simp [bitOperand]
    omega

end Sys2Proof
end

