-- ==== Sys2Proof/Laws/Diagnostic.lean ====
section
/-! SUPPORT. The bits of a snapshot and the length of a field of its text (spec/44_diagnostic.md R140, R141). -/

namespace Sys2Proof.Machine

/-- Which field each bit of the snapshot shows. -/
theorem getLsbD_snapshot (b : Bank) (i : Nat) : b.snapshot.getLsbD i =
    if i < 16 then b.HL.getLsbD i else if i < 32 then b.DE.getLsbD (i - 16) else if i < 48 then b.BC.getLsbD (i - 32)
    else if i < 56 then b.A.getLsbD (i - 48) else if i < 64 then b.F.getLsbD (i - 56) else b.PC.getLsbD (i - 64) := by
  have hHL := BitVec.getLsbD_append (x := b.PC ++ b.F ++ b.A ++ b.BC ++ b.DE) (y := b.HL) (i := i)
  have hDE := BitVec.getLsbD_append (x := b.PC ++ b.F ++ b.A ++ b.BC) (y := b.DE) (i := i - 16)
  have hBC := BitVec.getLsbD_append (x := b.PC ++ b.F ++ b.A) (y := b.BC) (i := i - 16 - 16)
  have hA := BitVec.getLsbD_append (x := b.PC ++ b.F) (y := b.A) (i := i - 16 - 16 - 16)
  have hF := BitVec.getLsbD_append (x := b.PC) (y := b.F) (i := i - 16 - 16 - 16 - 8)
  refine hHL.trans ?_
  rw [hDE, hBC, hA, hF]
  simp only [Nat.sub_sub, Nat.reduceAdd]
  split_ifs <;> first | rfl | omega

theorem binary_zero (v : BitVec 0) : binary 0 v = [] := rfl

theorem binary_succ (n : Nat) (v : BitVec (n + 1)) :
    binary (n + 1) v = (if v.getLsbD n then '1' else '0') :: binary n (v.setWidth n) := rfl

end Sys2Proof.Machine
end

