-- ==== Sys2Proof/Laws/State.lean ====
section
/-! SUPPORT. What each named update of the state does to each field: one lemma per field per update, true by rfl, so that
no later proof unfolds a record update. -/

namespace Sys2Proof.Machine

/-! ## One field of the bank replaced -/

section
variable (v : Byte) (b : Bank)
@[simp] theorem Bank.setA_A : (b.setA v).A = v := rfl
@[simp] theorem Bank.setA_F : (b.setA v).F = b.F := rfl
@[simp] theorem Bank.setA_BC : (b.setA v).BC = b.BC := rfl
@[simp] theorem Bank.setA_DE : (b.setA v).DE = b.DE := rfl
@[simp] theorem Bank.setA_HL : (b.setA v).HL = b.HL := rfl
@[simp] theorem Bank.setA_SP : (b.setA v).SP = b.SP := rfl
@[simp] theorem Bank.setA_PC : (b.setA v).PC = b.PC := rfl
end

section
variable (v : Byte) (b : Bank)
@[simp] theorem Bank.setF_A : (b.setF v).A = b.A := rfl
@[simp] theorem Bank.setF_F : (b.setF v).F = v := rfl
@[simp] theorem Bank.setF_BC : (b.setF v).BC = b.BC := rfl
@[simp] theorem Bank.setF_DE : (b.setF v).DE = b.DE := rfl
@[simp] theorem Bank.setF_HL : (b.setF v).HL = b.HL := rfl
@[simp] theorem Bank.setF_SP : (b.setF v).SP = b.SP := rfl
@[simp] theorem Bank.setF_PC : (b.setF v).PC = b.PC := rfl
end

section
variable (v : Word) (b : Bank)
@[simp] theorem Bank.setBC_A : (b.setBC v).A = b.A := rfl
@[simp] theorem Bank.setBC_F : (b.setBC v).F = b.F := rfl
@[simp] theorem Bank.setBC_BC : (b.setBC v).BC = v := rfl
@[simp] theorem Bank.setBC_DE : (b.setBC v).DE = b.DE := rfl
@[simp] theorem Bank.setBC_HL : (b.setBC v).HL = b.HL := rfl
@[simp] theorem Bank.setBC_SP : (b.setBC v).SP = b.SP := rfl
@[simp] theorem Bank.setBC_PC : (b.setBC v).PC = b.PC := rfl
end

section
variable (v : Word) (b : Bank)
@[simp] theorem Bank.setDE_A : (b.setDE v).A = b.A := rfl
@[simp] theorem Bank.setDE_F : (b.setDE v).F = b.F := rfl
@[simp] theorem Bank.setDE_BC : (b.setDE v).BC = b.BC := rfl
@[simp] theorem Bank.setDE_DE : (b.setDE v).DE = v := rfl
@[simp] theorem Bank.setDE_HL : (b.setDE v).HL = b.HL := rfl
@[simp] theorem Bank.setDE_SP : (b.setDE v).SP = b.SP := rfl
@[simp] theorem Bank.setDE_PC : (b.setDE v).PC = b.PC := rfl
end

section
variable (v : Word) (b : Bank)
@[simp] theorem Bank.setHL_A : (b.setHL v).A = b.A := rfl
@[simp] theorem Bank.setHL_F : (b.setHL v).F = b.F := rfl
@[simp] theorem Bank.setHL_BC : (b.setHL v).BC = b.BC := rfl
@[simp] theorem Bank.setHL_DE : (b.setHL v).DE = b.DE := rfl
@[simp] theorem Bank.setHL_HL : (b.setHL v).HL = v := rfl
@[simp] theorem Bank.setHL_SP : (b.setHL v).SP = b.SP := rfl
@[simp] theorem Bank.setHL_PC : (b.setHL v).PC = b.PC := rfl
end

section
variable (v : Word) (b : Bank)
@[simp] theorem Bank.setSP_A : (b.setSP v).A = b.A := rfl
@[simp] theorem Bank.setSP_F : (b.setSP v).F = b.F := rfl
@[simp] theorem Bank.setSP_BC : (b.setSP v).BC = b.BC := rfl
@[simp] theorem Bank.setSP_DE : (b.setSP v).DE = b.DE := rfl
@[simp] theorem Bank.setSP_HL : (b.setSP v).HL = b.HL := rfl
@[simp] theorem Bank.setSP_SP : (b.setSP v).SP = v := rfl
@[simp] theorem Bank.setSP_PC : (b.setSP v).PC = b.PC := rfl
end

section
variable (v : Word) (b : Bank)
@[simp] theorem Bank.setPC_A : (b.setPC v).A = b.A := rfl
@[simp] theorem Bank.setPC_F : (b.setPC v).F = b.F := rfl
@[simp] theorem Bank.setPC_BC : (b.setPC v).BC = b.BC := rfl
@[simp] theorem Bank.setPC_DE : (b.setPC v).DE = b.DE := rfl
@[simp] theorem Bank.setPC_HL : (b.setPC v).HL = b.HL := rfl
@[simp] theorem Bank.setPC_SP : (b.setPC v).SP = b.SP := rfl
@[simp] theorem Bank.setPC_PC : (b.setPC v).PC = v := rfl
end

/-! ## A field replaced by its own value, and a field replaced twice -/

@[simp] theorem Bank.setA_self (b : Bank) : b.setA b.A = b := rfl
@[simp] theorem Bank.setF_self (b : Bank) : b.setF b.F = b := rfl
@[simp] theorem Bank.setBC_self (b : Bank) : b.setBC b.BC = b := rfl
@[simp] theorem Bank.setDE_self (b : Bank) : b.setDE b.DE = b := rfl
@[simp] theorem Bank.setHL_self (b : Bank) : b.setHL b.HL = b := rfl
@[simp] theorem Bank.setSP_self (b : Bank) : b.setSP b.SP = b := rfl
@[simp] theorem Bank.setPC_self (b : Bank) : b.setPC b.PC = b := rfl

@[simp] theorem Bank.setA_setA (v w : Byte) (b : Bank) : (b.setA v).setA w = b.setA w := rfl
@[simp] theorem Bank.setF_setF (v w : Byte) (b : Bank) : (b.setF v).setF w = b.setF w := rfl
@[simp] theorem Bank.setBC_setBC (v w : Word) (b : Bank) : (b.setBC v).setBC w = b.setBC w := rfl
@[simp] theorem Bank.setDE_setDE (v w : Word) (b : Bank) : (b.setDE v).setDE w = b.setDE w := rfl
@[simp] theorem Bank.setHL_setHL (v w : Word) (b : Bank) : (b.setHL v).setHL w = b.setHL w := rfl
@[simp] theorem Bank.setSP_setSP (v w : Word) (b : Bank) : (b.setSP v).setSP w = b.setSP w := rfl
@[simp] theorem Bank.setPC_setPC (v w : Word) (b : Bank) : (b.setPC v).setPC w = b.setPC w := rfl

/-! ## One field of the state replaced -/

section
variable (s : State) (b b' : Bank) (r r' : Response) (ps qs : List PortInput)
@[simp] theorem State.setBank_bank : (s.setBank b).bank = b := rfl
@[simp] theorem State.setBank_pending : (s.setBank b).pending = s.pending := rfl
@[simp] theorem State.setBank_response : (s.setBank b).response = s.response := rfl
@[simp] theorem State.setResponse_bank : (s.setResponse r).bank = s.bank := rfl
@[simp] theorem State.setResponse_pending : (s.setResponse r).pending = s.pending := rfl
@[simp] theorem State.setResponse_response : (s.setResponse r).response = r := rfl
@[simp] theorem State.setPending_bank : (s.setPending ps).bank = s.bank := rfl
@[simp] theorem State.setPending_pending : (s.setPending ps).pending = ps := rfl
@[simp] theorem State.setPending_response : (s.setPending ps).response = s.response := rfl
@[simp] theorem State.setBank_setBank : (s.setBank b).setBank b' = s.setBank b' := rfl
@[simp] theorem State.setBank_setResponse : (s.setResponse r).setBank b = (s.setBank b).setResponse r := rfl
@[simp] theorem State.setBank_self : s.setBank s.bank = s := rfl
@[simp] theorem State.setResponse_setResponse : (s.setResponse r).setResponse r' = s.setResponse r' := rfl
@[simp] theorem State.setPending_setPending : (s.setPending ps).setPending qs = s.setPending qs := rfl
@[simp] theorem State.setPending_self : s.setPending s.pending = s := rfl
end

/-! ## The port: presenting, reading and taking an input -/

section
variable (s : State) (c : CommandWord) (nbits w : Nat)
@[simp] theorem State.presenting_bank : (s.presenting c).bank = s.bank := rfl
@[simp] theorem State.presenting_pending : (s.presenting c).pending = PortInput.present c :: s.pending := rfl
@[simp] theorem State.presenting_response : (s.presenting c).response = s.response := rfl
@[simp] theorem State.presenting_nextInput : (s.presenting c).nextInput = PortInput.present c := rfl
@[simp] theorem State.presenting_takeInput : (s.presenting c).takeInput = s := rfl
@[simp] theorem State.takeInput_bank : s.takeInput.bank = s.bank := rfl
@[simp] theorem State.takeInput_pending : s.takeInput.pending = s.pending.tail := rfl
@[simp] theorem State.takeInput_response : s.takeInput.response = s.response := rfl
@[simp] theorem State.withFetchWord_bank : (s.withFetchWord nbits w).bank = s.bank := rfl
@[simp] theorem State.withFetchWord_response : (s.withFetchWord nbits w).response = s.response := rfl
theorem State.withFetchWord_eq_presenting : s.withFetchWord nbits w = s.presenting (commandOfBits nbits w) := rfl
end

@[simp] theorem State.reset_bank : State.reset.bank = Bank.reset := rfl
@[simp] theorem State.reset_pending : State.reset.pending = [] := rfl
@[simp] theorem State.reset_response : State.reset.response = .ok .noValue := rfl

@[simp] theorem PortInput.present_rst (c : CommandWord) : (PortInput.present c).rst = false := rfl
@[simp] theorem PortInput.present_cmdValid (c : CommandWord) : (PortInput.present c).cmdValid = true := rfl

end Sys2Proof.Machine
end

