-- ==== Sys2Proof/Laws/Ops.lean ====
section
/-! SUPPORT. One lemma per shared operation, saying all it can do, and the inversion of a meaning and of a step: provers
cite these and do not unfold the operations. -/

namespace Sys2Proof.Machine

/-! ## How a command ends -/

section
variable (s : State)

@[simp] theorem complete_eq (b : Bank) (r : Result) : complete b r s = .next ((s.setBank b).setResponse (.ok r)) := rfl

@[simp] theorem raise_eq (e : ErrorKind) : raise e s = .next (s.setResponse (.error e)) := rfl

@[simp] theorem endRead_ok (v : RegisterValue) : endRead (.ok v) s = .next (s.setResponse (.ok (.register v))) := rfl

@[simp] theorem endRead_error (e : ErrorKind) : endRead (.error e) s = .next (s.setResponse (.error e)) := rfl

@[simp] theorem endWrite_ok (b : Bank) : endWrite (.ok b) s = .next ((s.setBank b).setResponse (.ok .noValue)) := rfl

@[simp] theorem endWrite_error (e : ErrorKind) : endWrite (.error e) s = .next (s.setResponse (.error e)) := rfl

/-- A read answers a next state in which the response alone is new. -/
theorem endRead_answers (x : Except ErrorKind RegisterValue) :
    ∃ r, endRead x s = .next (s.setResponse r) ∧
      ((∃ v, x = .ok v ∧ r = .ok (.register v)) ∨ ∃ e, x = .error e ∧ r = .error e) := by
  cases x with
  | ok v => exact ⟨_, rfl, .inl ⟨v, rfl, rfl⟩⟩
  | error e => exact ⟨_, rfl, .inr ⟨e, rfl, rfl⟩⟩

/-- A write answers a next state: the written bank with no result, or the bank as it was with an error. -/
theorem endWrite_answers (x : Except ErrorKind Bank) :
    (∃ b, x = .ok b ∧ endWrite x s = .next ((s.setBank b).setResponse (.ok .noValue))) ∨
      ∃ e, x = .error e ∧ endWrite x s = .next (s.setResponse (.error e)) := by
  cases x with
  | ok b => exact .inl ⟨b, rfl, rfl⟩
  | error e => exact .inr ⟨e, rfl, rfl⟩

end

/-! ## Registers -/

section
variable (b : Bank) (v : Byte) (w : Word)

/-- Which 8-bit identifiers name storage. -/
theorem read8_isOk (r : Register8) (h : r ≠ .HLind) : ∃ x, b.read8 r = .ok x := by
  cases r <;> first | exact absurd rfl h | exact ⟨_, rfl⟩

theorem write8_isOk (r : Register8) (h : r ≠ .HLind) : ∃ b', b.write8 r v = .ok b' := by
  cases r <;> first | exact absurd rfl h | exact ⟨_, rfl⟩

/-- What a write of an 8-bit register does: the register reads the value, every other reads as before, and the fields
that no 8-bit identifier names are kept. -/
theorem write8_spec (r : Register8) (b' : Bank) (h : b.write8 r v = .ok b') :
    b'.read8 r = .ok v ∧ (∀ q, q ≠ r → b'.read8 q = b.read8 q) ∧ b'.F = b.F ∧ b'.SP = b.SP ∧ b'.PC = b.PC := by
  cases r <;> simp [Bank.write8] at h <;> subst h <;>
    refine ⟨by simp [Bank.read8], fun q hq => ?_, by simp, by simp, by simp⟩ <;> cases q <;>
    first | exact absurd rfl hq | simp [Bank.read8]

/-- What a write of a 16-bit register does. -/
theorem write16_spec (r : Register16) : ∃ b', b.write16 (.reg r) w = .ok b' ∧ b'.read16 (.reg r) = .ok w ∧
    (∀ q, q ≠ r → b'.read16 (.reg q) = b.read16 (.reg q)) ∧ b'.A = b.A ∧ b'.F = b.F := by
  cases r <;> refine ⟨_, rfl, rfl, fun q hq => ?_, rfl, rfl⟩ <;> cases q <;> first | exact absurd rfl hq | rfl

end

/-! ## A meaning and a step -/

/-- Every command answers a next state that keeps the caller's stream. -/
theorem exec_answers (i : Instr) (s : State) : ∃ b r, exec i s = .next ((s.setBank b).setResponse r) := by
  have read (x) : ∃ b r, endRead x s = .next ((s.setBank b).setResponse r) := by
    obtain ⟨r, h, -⟩ := endRead_answers s x
    exact ⟨s.bank, r, h⟩
  have write (x) : ∃ b r, endWrite x s = .next ((s.setBank b).setResponse r) := by
    obtain ⟨b, -, h⟩ | ⟨e, -, h⟩ := endWrite_answers s x
    · exact ⟨b, _, h⟩
    · exact ⟨s.bank, _, h⟩
  cases i with
  | get8 r => exact read _
  | set8 r v => exact write _
  | get16 r => exact read _
  | set16 r v => exact write _
  | getf f => exact ⟨_, _, rfl⟩
  | setf f b => exact ⟨_, _, rfl⟩
  | get sel => exact read _
  | set sel val => exact write _
  | dump => exact ⟨_, _, rfl⟩

/-- What a step's inputs make it do (R246): one of four cases. -/
theorem performInput_cases (p : PortInput) (s : State) :
    (p.rst = true ∧ performInput p s = .next ((s.setBank Bank.reset).setResponse (.ok .noValue))) ∨
    (p.rst = false ∧ p.cmdValid = false ∧ performInput p s = .next (s.setResponse (.ok .noValue))) ∨
    (p.rst = false ∧ p.cmdValid = true ∧ ∃ e, decode p.cmd p.wdata p.wtag = .error e ∧
      performInput p s = .next (s.setResponse (.error .illegalCommand))) ∨
    (p.rst = false ∧ p.cmdValid = true ∧ ∃ i, decode p.cmd p.wdata p.wtag = .ok i ∧ performInput p s = exec i s) := by
  cases hr : p.rst with
  | true => exact .inl ⟨rfl, by simp [performInput, hr, resetStep]⟩
  | false =>
    cases hv : p.cmdValid with
    | false => exact .inr (.inl ⟨rfl, rfl, by simp [performInput, hr, hv, idleStep]⟩)
    | true =>
      cases hd : decode p.cmd p.wdata p.wtag with
      | error e => exact .inr (.inr (.inl ⟨rfl, rfl, e, rfl, by simp [performInput, hr, hv, hd, illegalStep]⟩))
      | ok i => exact .inr (.inr (.inr ⟨rfl, rfl, i, rfl, by simp [performInput, hr, hv, hd]⟩))

/-- A step performs the oldest input on the state without it. -/
theorem step_eq (s : State) : step s = performInput s.nextInput s.takeInput := rfl

/-- A step on a presented command performs that command on the state it was presented to. -/
@[simp] theorem step_presenting (s : State) (c : CommandWord) :
    step (s.presenting c) = performInput (PortInput.present c) s := rfl

/-- Every step answers a next state with one input fewer to come. -/
theorem step_answers (s : State) : ∃ b r, step s = .next ((s.takeInput.setBank b).setResponse r) := by
  rw [step_eq]
  obtain ⟨-, h⟩ | ⟨-, -, h⟩ | ⟨-, -, e, -, h⟩ | ⟨-, -, i, -, h⟩ := performInput_cases s.nextInput s.takeInput
  · exact ⟨_, _, h⟩
  · exact ⟨s.bank, _, h⟩
  · exact ⟨s.bank, _, h⟩
  · obtain ⟨b, r, hi⟩ := exec_answers i s.takeInput
    exact ⟨b, r, h.trans hi⟩

end Sys2Proof.Machine
end

