-- ==== Sys2Proof/Laws/PerInstr.lean ====
section
/-! SUPPORT. What holds of every command as syntax, one lemma per constructor of Instr. -/

/-! The family CoveredByRow: the word a well-formed command encodes to is one that the command's own row of
spec/opcode_table.json covers. -/

namespace Sys2Proof.Laws.CoveredByRow

/-- The command's word falls under a row of the opcode table that carries the command's name. -/
def Statement (i : Instr) : Prop :=
  i.wellFormed = true → ∃ row ∈ opcodeTable, row.op = opOf i ∧ row.covers (encode i).cmd = true

/-- A word of format F8 falls under its row whatever the 8-bit register. -/
theorem eight (r : Register8) :
    (⟨.get8, 0xF8#8, 0x00#8⟩ : OpcodeRow).covers (joinCmd 0x0#4 (joinSel 0#1 (r8Code r))) = true ∧
    (⟨.set8, 0xF8#8, 0x10#8⟩ : OpcodeRow).covers (joinCmd 0x1#4 (joinSel 0#1 (r8Code r))) = true := by
  cases r <;> decide

/-- A word of format FF falls under its row whatever the flag. -/
theorem flag (f : Flag) :
    (⟨.getf, 0xFC#8, 0x40#8⟩ : OpcodeRow).covers (joinCmd 0x4#4 (joinFlagSel 0#2 (flagCode f))) = true ∧
    (⟨.setf, 0xFC#8, 0x50#8⟩ : OpcodeRow).covers (joinCmd 0x5#4 (joinFlagSel 0#2 (flagCode f))) = true := by
  cases f <;> decide

/-- A word of format F16 falls under its row whatever the 16-bit code. -/
theorem sixteen (r : PortRegister16) :
    (⟨.get16, 0xF8#8, 0x20#8⟩ : OpcodeRow).covers (joinCmd 0x2#4 (joinSel 0#1 (r16Code r))) = true ∧
    (⟨.set16, 0xF8#8, 0x30#8⟩ : OpcodeRow).covers (joinCmd 0x3#4 (joinSel 0#1 (r16Code r))) = true := by
  generalize r16Code r = c
  revert c
  decide

/-- A word of format FG falls under its row whatever the selector. -/
theorem generic (sel : RegisterSelector) :
    (⟨.get, 0xF0#8, 0x60#8⟩ : OpcodeRow).covers (joinCmd 0x6#4 (selectorBits sel)) = true ∧
    (⟨.set, 0xF0#8, 0x70#8⟩ : OpcodeRow).covers (joinCmd 0x7#4 (selectorBits sel)) = true := by
  generalize selectorBits sel = c
  revert c
  decide

theorem get8 (r : Register8) : Statement (.get8 r) := fun _ =>
  ⟨⟨.get8, 0xF8#8, 0x00#8⟩, by simp [opcodeTable], rfl, (eight r).1⟩

theorem set8 (r : Register8) (v : Byte) : Statement (.set8 r v) := fun _ =>
  ⟨⟨.set8, 0xF8#8, 0x10#8⟩, by simp [opcodeTable], rfl, (eight r).2⟩

theorem get16 (r : PortRegister16) : Statement (.get16 r) := fun _ =>
  ⟨⟨.get16, 0xF8#8, 0x20#8⟩, by simp [opcodeTable], rfl, (sixteen r).1⟩

theorem set16 (r : PortRegister16) (v : Word) : Statement (.set16 r v) := fun _ =>
  ⟨⟨.set16, 0xF8#8, 0x30#8⟩, by simp [opcodeTable], rfl, (sixteen r).2⟩

theorem getf (f : Flag) : Statement (.getf f) := fun _ =>
  ⟨⟨.getf, 0xFC#8, 0x40#8⟩, by simp [opcodeTable], rfl, (flag f).1⟩

theorem setf (f : Flag) (b : Bool) : Statement (.setf f b) := fun _ =>
  ⟨⟨.setf, 0xFC#8, 0x50#8⟩, by simp [opcodeTable], rfl, (flag f).2⟩

theorem get (sel : RegisterSelector) : Statement (.get sel) := fun _ =>
  ⟨⟨.get, 0xF0#8, 0x60#8⟩, by simp [opcodeTable], rfl, (generic sel).1⟩

theorem set (sel : RegisterSelector) (val : RegisterValue) : Statement (.set sel val) := fun _ =>
  ⟨⟨.set, 0xF0#8, 0x70#8⟩, by simp [opcodeTable], rfl, (generic sel).2⟩

theorem dump : Statement .dump := fun _ =>
  ⟨⟨.dump, 0xFF#8, 0x80#8⟩, by simp [opcodeTable], rfl, by decide⟩

end Sys2Proof.Laws.CoveredByRow
end

