-- ==== Sys2Proof/Tests/Slice0.lean ====
section
/-! SUPPORT. The model's own tests. Expected results are those of spec/95_test_vectors.md (its section in each comment) or
words written out from spec/30_encoding.md; none was read off the model. The witnesses at the end meet the hypotheses of
the statements in Certificates/Slice0/Obligations.lean. -/

namespace Sys2Proof.Tests

open Sys2Proof.Machine

/-! ## Well-formedness: what the check refuses -/

/-- R63: `Reserved16(c)` exists for c = 5, 6, 7 only, so 4 (PC's code) and below are no reserved selector. -/
theorem test_wellFormed_refuses_reserved_get16 : (Instr.get16 (.reserved 4#3)).wellFormed = false := by decide
theorem test_wellFormed_refuses_reserved_set16 : (Instr.set16 (.reserved 0#3) 0x1234#16).wellFormed = false := by decide
theorem test_wellFormed_refuses_reserved_get : (Instr.get (.r16 (.reserved 3#3))).wellFormed = false := by decide
theorem test_wellFormed_refuses_reserved_set :
    (Instr.set (.r16 (.reserved 4#3)) (.v16 0#16)).wellFormed = false := by decide
theorem test_wellFormed_accepts_reserved_5_6_7 :
    ([5#3, 6#3, 7#3].all fun c => (Instr.get16 (.reserved c)).wellFormed) = true := by decide

/-! ## Decoding: words written out bit by bit from R67 and R68 -/

theorem test_decode_get8 : decode 0b0000_0101#8 0xFFFF#16 true = .ok (.get8 .L) := by decide
theorem test_decode_set8 : decode 0b0001_0110#8 0x0055#16 false = .ok (.set8 .HLind 0x55#8) := by decide
theorem test_decode_get16 : decode 0b0010_0011#8 0x0000#16 false = .ok (.get16 (.reg .SP)) := by decide
theorem test_decode_get16_reserved : decode 0b0010_0101#8 0x0000#16 false = .ok (.get16 (.reserved 5#3)) := by decide
theorem test_decode_set16 : decode 0b0011_0010#8 0x8000#16 true = .ok (.set16 (.reg .HL) 0x8000#16) := by decide
theorem test_decode_getf : decode 0b0100_0010#8 0x0000#16 false = .ok (.getf .H) := by decide
theorem test_decode_setf : decode 0b0101_0001#8 0x0001#16 false = .ok (.setf .N true) := by decide
theorem test_decode_get : decode 0b0110_1001#8 0x0000#16 false = .ok (.get (.r16 (.reg .DE))) := by decide
theorem test_decode_set : decode 0b0111_0111#8 0x0010#16 true = .ok (.set (.r8 .A) (.v16 0x0010#16)) := by decide
theorem test_decode_dump : decode 0b1000_0000#8 0x0000#16 false = .ok .dump := by decide

/-- Section 2.7: every one of these words is illegal. -/
theorem test_decode_rejects_illegal_words :
    ([0x08#8, 0x0F#8, 0x18#8, 0x1F#8, 0x28#8, 0x38#8, 0x44#8, 0x4C#8, 0x54#8, 0x5F#8, 0x81#8, 0x8F#8, 0x90#8, 0xA5#8,
      0xFF#8].all fun cmd => (decode cmd 0x0000#16 false).toOption == none) = true := by decide

/-- The three grounds of R69, by name. -/
theorem test_decode_rejects_by_name :
    decode 0xA5#8 0x0000#16 false = .error .reservedOp ∧ decode 0x4C#8 0x0000#16 false = .error .reservedSelBit ∧
      decode 0x11#8 0x0100#16 false = .error .wideOperand := by decide

/-! ## Commands: one step each, from the start state S0 of section 2 -/

/-- S0: A = 10, F = 00, BC = 1234, DE = 5678, HL = 9ABC, SP = FFFE, PC = 0100. -/
def bank0 : Bank :=
  { A := 0x10#8, F := 0x00#8, BC := 0x1234#16, DE := 0x5678#16, HL := 0x9ABC#16, SP := 0xFFFE#16, PC := 0x0100#16 }

/-- S0 with one input presented. -/
def with0 (p : PortInput) : State := { bank := bank0, pending := [p], response := .ok .noValue }

/-- S0 with the command `cmd / wdata / wtag` presented. -/
def s0 (cmd : Byte) (wdata : Word) (wtag : Bool) : State := with0 (.present ⟨cmd, wdata, wtag⟩)

/-- The bank and the wires after one step. -/
def after (s : State) : Option (Bank × PortOutput) :=
  match step s with
  | .next t => some (t.bank, t.response.wires)
  | .fault _ => none
  | .refused _ => none

/-- `err rdata rtag` with `snap = 0`. -/
def wires (err : BitVec 2) (rdata : Word) (rtag : Bool) : PortOutput := ⟨err, rdata, rtag, 0#80⟩

-- section 2.1
theorem test_get8_H : after (s0 0x04#8 0x0000#16 false) = some (bank0, wires 0#2 0x009A#16 false) := by decide
theorem test_get8_HLind : after (s0 0x06#8 0x0000#16 false) = some (bank0, wires 1#2 0x0000#16 false) := by decide
-- section 2.2
theorem test_set8_B : after (s0 0x10#8 0x00EE#16 false) = some ({ bank0 with BC := 0xEE34#16 }, wires 0#2 0#16 false) := by
  decide
theorem test_set8_wide_operand : after (s0 0x11#8 0x0100#16 false) = some (bank0, wires 3#2 0#16 false) := by decide
-- section 2.3
theorem test_get16_SP : after (s0 0x23#8 0x0000#16 false) = some (bank0, wires 0#2 0xFFFE#16 true) := by decide
theorem test_get16_reserved : after (s0 0x26#8 0x0000#16 false) = some (bank0, wires 1#2 0#16 false) := by decide
theorem test_set16_PC : after (s0 0x34#8 0xBEEF#16 false) = some ({ bank0 with PC := 0xBEEF#16 }, wires 0#2 0#16 false) := by
  decide
theorem test_set16_reserved : after (s0 0x35#8 0xBEEF#16 false) = some (bank0, wires 1#2 0#16 false) := by decide
-- section 2.4
theorem test_get_r16_DE : after (s0 0x69#8 0x0000#16 false) = some (bank0, wires 0#2 0x5678#16 true) := by decide
theorem test_get_r8_L : after (s0 0x65#8 0x0000#16 false) = some (bank0, wires 0#2 0x00BC#16 false) := by decide
theorem test_set_r8_L : after (s0 0x75#8 0x00AA#16 false) = some ({ bank0 with HL := 0x9AAA#16 }, wires 0#2 0#16 false) := by
  decide
theorem test_set_HLind_width_first : after (s0 0x76#8 0xAAAA#16 true) = some (bank0, wires 2#2 0#16 false) := by decide

/-- The start state of section 2.5's rows 4 and 6: F = 09. -/
def s9 (cmd : Byte) (wdata : Word) : State :=
  { s0 cmd wdata false with bank := { bank0 with F := 0x09#8 } }

-- section 2.5
theorem test_getf_C : after (s9 0x43#8 0x0000#16) = some ({ bank0 with F := 0x09#8 }, wires 0#2 0x0001#16 false) := by decide
theorem test_getf_N : after (s9 0x41#8 0x0000#16) = some ({ bank0 with F := 0x09#8 }, wires 0#2 0x0000#16 false) := by decide
theorem test_setf_Z_0 : after (s9 0x50#8 0x0000#16) = some ({ bank0 with F := 0x08#8 }, wires 0#2 0#16 false) := by decide
theorem test_setf_wide_operand : after (s9 0x51#8 0x0002#16) = some ({ bank0 with F := 0x09#8 }, wires 3#2 0#16 false) := by
  decide
-- section 2.6
theorem test_dump : after (s0 0x80#8 0x0000#16 false) =
    some (bank0, { err := 0#2, rdata := 0#16, rtag := false, snap := 0x01000010123456789ABC#80 }) := by decide
theorem test_dump_text : bank0.render =
    "PC: 0000000100000000 F: 00000000 A: 00010000 BC: 0001001000110100 DE: 0101011001111000 HL: 1001101010111100" := by
  decide

-- section 2.8
theorem test_idle_ignores_cmd :
    after (with0 ⟨false, false, 0x30#8, 0x1111#16, false⟩) = some (bank0, wires 0#2 0#16 false) := by decide
theorem test_reset_discards_cmd :
    after (with0 ⟨true, true, 0x30#8, 0x1111#16, false⟩) = some (Bank.reset, wires 0#2 0#16 false) := by decide

/-! ## The words the host places -/

theorem test_decodeTableWord : decodeTableWord 8 0x07 = some (.get8 .A) ∧ decodeTableWord 8 0x7C =
    some (.set (.r16 (.reg .PC)) (.v8 0x00#8)) ∧ decodeTableWord 8 0x90 = none := by decide

/-- A command with operands, by the numbering of log 4: `set r16 PC, v16 0x0100`. -/
theorem test_withFetchWord : after (State.reset.withFetchWord 25 0x101007C) =
    some ({ Bank.reset with PC := 0x0100#16 }, wires 0#2 0#16 false) := by decide

/-! ## Assembler lines -/

theorem test_assemble_set_v16 : assembleLine "set r16 PC, v16 0x0100".toList = some ⟨0x7C#8, 0x0100#16, true⟩ := by decide
theorem test_assemble_refuses_wide_byte : assembleLine "set8 C, 0x100".toList = none := by decide
theorem test_hexWord_digits : hexWord 0x09AF#16 = "0x09AF".toList := by decide
theorem test_readWord_both_cases : readWord "0x9aF".toList = some 0x09AF#16 ∧ readWord "0xG".toList = none := by decide
theorem test_assembly_line : assemblyLine (.set16 (.reserved 5#3) 0x9999#16) = "set16 r16#5, 0x9999".toList := by decide

/-! ## Witnesses: the hypotheses of the statements can be met, each clause at a boundary -/

/-- R24's identifier has no storage; every other 8-bit identifier meets `r ≠ .HLind`. -/
theorem witness_ResetLeavesEveryFieldZero : Register8.A ≠ .HLind ∧ State.reset.bank.read8 .A = .ok 0x00#8 := by decide
theorem witness_GetAnswersAtSelectorWidth : Register8.L ≠ .HLind := by decide
theorem witness_SetWritesOnWidthMatchOnly : Register8.B ≠ .HLind ∧ (0x0100#16).extractLsb' 8 8 ≠ 0x00#8 := by decide
theorem witness_Set8LeavesOtherRegistersAlone : Register8.B ≠ .HLind ∧ Register8.C ≠ .B := by decide
theorem witness_WriteBackOfReadValueChangesNothing : Register8.H ≠ .HLind := by decide
theorem witness_Set16LeavesOtherRegistersAlone : Register16.SP ≠ .PC := by decide
theorem witness_HalfWritesCommute : Register8.B ≠ .C ∧ Register8.HLind ≠ .H := by decide
theorem witness_FlagsAreIndependent : Flag.Z ≠ .C := by decide

/-- An input for each of the four clauses. -/
theorem witness_StepRunsDecodedCommand :
    (⟨true, true, 0x80#8, 0#16, false⟩ : PortInput).rst = true ∧ PortInput.quiet.cmdValid = false ∧
      decode 0x57#8 0#16 false = .error .reservedSelBit ∧ decode 0x17#8 0x00FF#16 true = .ok (.set8 .A 0xFF#8) := by decide

theorem witness_AssembledCommandIsPerformed :
    (Instr.set (.r16 (.reserved 5#3)) (.v16 0xFFFF#16)).wellFormed = true ∧ decodeTableWord 8 0x80 = some .dump := by decide

theorem witness_DecodeUndoesEncode : (Instr.get16 (.reserved 7#3)).wellFormed = true := by decide

theorem witness_EncodeUndoesDecode :
    (⟨0x53#8, 0x0001#16, true⟩ : CommandWord).decode = .ok (.setf .C true) ∧
      opOf (.setf .C true) ∈ [Op.set8, Op.set16, Op.setf, Op.set] ∧
      (⟨0x7F#8, 0xFFFF#16, true⟩ : CommandWord).decode = .ok (.set (.r16 (.reserved 7#3)) (.v16 0xFFFF#16)) := by decide

theorem witness_AssemblerReadsBackEveryLine : (Instr.set (.r16 (.reserved 6#3)) (.v8 0xAB#8)).wellFormed = true := by decide

/-- Each ground of illegality at the edge of its range, and a legal word beside it. -/
theorem witness_IllegalCommandsAreExactlyThese :
    0x9#4 ≤ (0x90#8).extractLsb' 4 4 ∧ ¬ 0x9#4 ≤ (0x8F#8).extractLsb' 4 4 ∧
      ((0x38#8).extractLsb' 4 4 ≤ 0x3#4 ∧ (0x38#8).getLsbD 3 = true) ∧
      ((0x54#8).extractLsb' 4 4 = 0x5#4 ∧ (0x54#8).getLsbD 2 = true) ∧
      ((0x48#8).extractLsb' 4 4 = 0x4#4 ∧ (0x48#8).getLsbD 3 = true) ∧
      ((0x81#8).extractLsb' 4 4 = 0x8#4 ∧ (0x81#8).extractLsb' 0 4 ≠ 0x0#4) ∧
      (0x0100#16).extractLsb' 8 8 ≠ 0x00#8 ∧ (0x00FF#16).extractLsb' 8 8 = 0x00#8 ∧
      (0x0002#16).extractLsb' 1 15 ≠ 0#15 ∧ (0x0001#16).extractLsb' 1 15 = 0#15 ∧
      decode 0x80#8 0xFFFF#16 true = .ok .dump := by decide

/-- The first and the last word of each range of illegal words. -/
theorem witness_CommandMapOfAllWords :
    ([(0x08#8, 0x0F#8), (0x18#8, 0x1F#8), (0x28#8, 0x2F#8), (0x38#8, 0x3F#8), (0x44#8, 0x4F#8), (0x54#8, 0x5F#8),
      (0x81#8, 0xFF#8)].all fun r => decide (r.1 ≤ r.2) && (decode r.1 0#16 false).toOption == none &&
        (decode r.2 0#16 false).toOption == none) = true := by decide

theorem witness_DecoderAgreesWithOpcodeTable : (⟨.dump, 0xFF#8, 0x80#8⟩ : OpcodeRow) ∈ opcodeTable := by decide

theorem witness_ReservedSixteenBitCodesNameNoRegister : (5#3 : BitVec 3) ∈ [5#3, 6#3, 7#3] ∧ 7#3 ∈ [5#3, 6#3, 7#3] := by decide

theorem witness_ErrorPriority :
    (0x0100#16).extractLsb' 8 8 ≠ 0x00#8 ∧ (0x00FF#16).extractLsb' 8 8 = 0x00#8 ∧
      (0x7F#8 : Byte) ∈ [0x7D#8, 0x7E#8, 0x7F#8] := by decide

theorem witness_SetfWritesNamedBitOnly :
    (3#2 : BitVec 2) ≠ 0#2 ∧ (0x0002#16).extractLsb' 1 15 ≠ 0#15 ∧ 7 < 8 ∧ bitpos .C < 8 := by decide

theorem witness_WriteOperands : (0x8#4 : BitVec 4) ∈ [0x0#4, 0x2#4, 0x4#4, 0x6#4, 0x8#4] := by decide

theorem witness_Set8ReplacesNamedByte :
    (0x00AB#16 : Word) = (0xAB#8 : Byte).setWidth 16 ∧ (0x01AB#16).extractLsb' 8 8 ≠ 0x00#8 := by decide

theorem witness_GetfAnswersNamedFlag : (1#2 : BitVec 2) ≠ 0#2 := by decide

theorem witness_DumpAnswersSnapshotOfSixFields :
    Instr.getf .Z ≠ .dump ∧ (∃ t, exec (.getf .Z) State.reset = .next t) ∧ (1#4 : BitVec 4) ≠ 0x0#4 :=
  ⟨by decide, ⟨_, rfl⟩, by decide⟩

theorem witness_ErrorsChangeNothingAndRepeat :
    ∃ t, step (State.reset.presenting ⟨0x06#8, 0#16, false⟩) = .next t ∧ t.response = .error .unsupportedRegister :=
  ⟨_, rfl, by decide⟩

theorem witness_ReadCommandsLeaveBankUnchanged : opOf (.get (.r8 .A)) ∈ [Op.get8, Op.get16, Op.get, Op.getf, Op.dump] := by
  decide

theorem witness_PairsAndHalves :
    (Register8.H, Register8.L, Register16.HL) ∈
      [(Register8.B, Register8.C, Register16.BC), (.D, .E, .DE), (.H, .L, .HL)] ∧
      (with0 .quiet).bank.read16 (.reg .HL) = .ok 0x9ABC#16 := by decide

theorem witness_AccumulatorIsIndependent :
    (∀ v, Instr.set8 .B 0xFF#8 ≠ .set8 .A v) ∧ (∀ v, Instr.set8 .B 0xFF#8 ≠ .set (.r8 .A) (.v8 v)) := by simp

/-- A step that changes PC, and the command it runs. -/
theorem witness_WholeWordRegistersChangeOnlyByWholeWrites :
    ∃ t, step (s0 0x34#8 0xBEEF#16 false) = .next t ∧
      t.bank.read16 (.reg .PC) ≠ (s0 0x34#8 0xBEEF#16 false).bank.read16 (.reg .PC) :=
  ⟨_, rfl, by decide⟩

/-- A step that changes a flag. -/
theorem witness_FlagsChangeOnlyBySetfOrReset :
    ∃ t, step (s0 0x53#8 0x0001#16 false) = .next t ∧
      readFlag .C t.bank.F ≠ readFlag .C (s0 0x53#8 0x0001#16 false).bank.F :=
  ⟨_, rfl, by decide⟩

/-- Two values of F that agree on every flag and differ in the reserved bits. -/
theorem witness_ReservedFlagBits : Instr.getf .Z ≠ .dump ∧ (0xF9#8 : Byte) ≠ 0x09#8 ∧
    ([Flag.Z, .N, .H, .C].all fun f => readFlag f 0xF9#8 == readFlag f 0x09#8) = true := by decide

/-- DUMP is a command that does not read SP. -/
theorem witness_StackPointerIsSeenOnlyByItsReaders :
    let p := (s0 0x80#8 0#16 false).nextInput
    decode p.cmd p.wdata p.wtag ≠ .ok (.get16 (.reg .SP)) ∧
      decode p.cmd p.wdata p.wtag ≠ .ok (.get (.r16 (.reg .SP))) := by decide

/-- A state other than reset that meets the invariant, and a step from it that writes F. -/
theorem witness_EveryStepKeepsInvariant :
    (s0 0x53#8 0x0001#16 false).Inv ∧ ∃ t, step (s0 0x53#8 0x0001#16 false) = .next t ∧ t.bank.F = 0x08#8 :=
  ⟨⟨by decide, by decide⟩, _, rfl, by decide⟩

theorem witness_ViewLosesNoState : bank0.view = bank0.view ∧ bank0.view ≠ Bank.reset.view := by decide

theorem witness_DumpTextHasFixedFormat : 15 < 16 := by decide

end Sys2Proof.Tests
end

/-! The proofs of the family 10_state.md. First one layer of rules that later proofs can cite: what each command is in
terms of the shared operations, what a command can do to the bank, and what the reads and writes of registers share
with F. Then the obligations. -/

namespace Sys2Proof.Machine

/-! ## Each command in terms of the shared operations -/

section
variable (s : State)

theorem exec_get8 (r : Register8) : exec (.get8 r) s = endRead ((s.bank.read8 r).map .v8) s := rfl

theorem exec_set8 (r : Register8) (v : Byte) : exec (.set8 r v) s = endWrite (s.bank.write8 r v) s := rfl

theorem exec_get16 (r : PortRegister16) : exec (.get16 r) s = endRead ((s.bank.read16 r).map .v16) s := rfl

theorem exec_set16 (r : PortRegister16) (v : Word) : exec (.set16 r v) s = endWrite (s.bank.write16 r v) s := rfl

theorem exec_getf (f : Flag) :
    exec (.getf f) s = .next (s.setResponse (.ok (.flag (readFlag f s.bank.F)))) := rfl

theorem exec_getf_of_readFlag_eq {f : Flag} {x : Bool} (h : readFlag f s.bank.F = x) :
    exec (.getf f) s = .next (s.setResponse (.ok (.flag x))) := h ▸ exec_getf s f

theorem exec_setf (f : Flag) (b : Bool) :
    exec (.setf f b) s = .next ((s.setBank (s.bank.setF (writeFlag f b s.bank.F))).setResponse (.ok .noValue)) := rfl

theorem exec_get (sel : RegisterSelector) : exec (.get sel) s = endRead (s.bank.readSelector sel) s := rfl

theorem exec_set (sel : RegisterSelector) (val : RegisterValue) :
    exec (.set sel val) s = endWrite (s.bank.writeSelector sel val) s := rfl

theorem exec_dump : exec .dump s = .next (s.setResponse (.ok (.snapshot s.bank.snapshot))) := rfl

end

/-! ## What a write of a register keeps -/

section
variable {b b' : Bank}

/-- A width-checked write that ends in OK is the 8-bit write or the 16-bit write of its selector (R121). -/
theorem writeSelector_ok_cases {sel : RegisterSelector} {val : RegisterValue} (h : b.writeSelector sel val = .ok b') :
    (∃ r v, sel = .r8 r ∧ val = .v8 v ∧ b.write8 r v = .ok b') ∨
      ∃ r v, sel = .r16 r ∧ val = .v16 v ∧ b.write16 r v = .ok b' := by
  cases sel with
  | r8 r =>
    cases val with
    | v8 v => exact .inl ⟨r, v, rfl, rfl, h⟩
    | v16 v => simp [Bank.writeSelector] at h
  | r16 r =>
    cases val with
    | v8 v => simp [Bank.writeSelector] at h
    | v16 v => exact .inr ⟨r, v, rfl, rfl, h⟩

/-- A is an 8-bit register of its own: a write of another 8-bit register leaves it as it was. -/
theorem write8_keeps_A {r : Register8} {v : Byte} (hr : r ≠ .A) (h : b.write8 r v = .ok b') : b'.A = b.A := by
  obtain ⟨-, hother, -⟩ := write8_spec b v r b' h
  exact Except.ok.inj (hother .A hr.symm)

theorem write8_keeps_F {r : Register8} {v : Byte} (h : b.write8 r v = .ok b') : b'.F = b.F := by
  obtain ⟨-, -, hF, -⟩ := write8_spec b v r b' h
  exact hF

/-- No 16-bit selector names A or F. -/
theorem write16_keeps_A_F {r : PortRegister16} {w : Word} (h : b.write16 r w = .ok b') : b'.A = b.A ∧ b'.F = b.F := by
  cases r with
  | reg r =>
    obtain ⟨b₁, h₁, -, -, hkept⟩ := write16_spec b w r
    obtain rfl : b₁ = b' := Except.ok.inj (h₁.symm.trans h)
    exact hkept
  | reserved c => simp [Bank.write16] at h

end

/-! ## What a command can do to the bank -/

/-- The banks a command can leave behind: the bank as it was, the bank of a successful register write, or the bank with
one flag written. -/
inductive BankEffect (b : Bank) : Instr → Bank → Prop where
  | kept (i : Instr) : BankEffect b i b
  | set8 {r : Register8} {v : Byte} {b' : Bank} (h : b.write8 r v = .ok b') : BankEffect b (.set8 r v) b'
  | set16 {r : PortRegister16} {w : Word} {b' : Bank} (h : b.write16 r w = .ok b') : BankEffect b (.set16 r w) b'
  | setf (f : Flag) (c : Bool) : BankEffect b (.setf f c) (b.setF (writeFlag f c b.F))
  | set {sel : RegisterSelector} {val : RegisterValue} {b' : Bank} (h : b.writeSelector sel val = .ok b') :
      BankEffect b (.set sel val) b'

/-- Every command answers a next state, whose bank is one of those and whose stream is the one before. -/
theorem exec_bankEffect (i : Instr) (s : State) :
    ∃ t, exec i s = .next t ∧ t.pending = s.pending ∧ BankEffect s.bank i t.bank := by
  have read (x) : ∃ t, endRead x s = .next t ∧ t.pending = s.pending ∧ BankEffect s.bank i t.bank := by
    obtain ⟨r, h, -⟩ := endRead_answers s x
    exact ⟨_, h, rfl, .kept i⟩
  have write (x) (hx : ∀ b', x = .ok b' → BankEffect s.bank i b') :
      ∃ t, endWrite x s = .next t ∧ t.pending = s.pending ∧ BankEffect s.bank i t.bank := by
    obtain ⟨b', hb', h⟩ | ⟨e, -, h⟩ := endWrite_answers s x
    · exact ⟨_, h, rfl, hx b' hb'⟩
    · exact ⟨_, h, rfl, .kept i⟩
  cases i with
  | get8 r => exact read _
  | set8 r v => exact write _ fun _ => .set8
  | get16 r => exact read _
  | set16 r v => exact write _ fun _ => .set16
  | getf f => exact ⟨_, exec_getf s f, rfl, .kept _⟩
  | setf f b => exact ⟨_, exec_setf s f b, rfl, .setf f b⟩
  | get sel => exact read _
  | set sel val => exact write _ fun _ => .set
  | dump => exact ⟨_, exec_dump s, rfl, .kept _⟩

/-- Only the two commands that name A with a byte write A (R21). -/
theorem BankEffect.A_eq {i : Instr} {b b' : Bank} (h : BankEffect b i b') (h8 : ∀ v, i ≠ .set8 .A v)
    (hset : ∀ v, i ≠ .set (.r8 .A) (.v8 v)) : b'.A = b.A := by
  cases h with
  | kept => rfl
  | set8 hw => exact write8_keeps_A (by rintro rfl; exact h8 _ rfl) hw
  | set16 hw => exact (write16_keeps_A_F hw).1
  | setf f c => exact Bank.setF_A _ b
  | set hw =>
    obtain ⟨r, v, rfl, rfl, hw⟩ | ⟨r, v, rfl, rfl, hw⟩ := writeSelector_ok_cases hw
    · exact write8_keeps_A (by rintro rfl; exact hset v rfl) hw
    · exact (write16_keeps_A_F hw).1

/-- F is kept whole by every command but SETF, which keeps its reserved bits (R29, R131). -/
theorem BankEffect.reservedBits_eq {i : Instr} {b b' : Bank} (h : BankEffect b i b') :
    reservedBits b'.F = reservedBits b.F := by
  cases h with
  | kept => rfl
  | set8 hw => rw [write8_keeps_F hw]
  | set16 hw => rw [(write16_keeps_A_F hw).2]
  | setf f c => simp
  | set hw =>
    obtain ⟨r, v, -, -, hw⟩ | ⟨r, v, -, -, hw⟩ := writeSelector_ok_cases hw
    · rw [write8_keeps_F hw]
    · rw [(write16_keeps_A_F hw).2]

/-! ## Register reads and writes beside another F -/

section
variable (F : Byte) (b : Bank)

@[simp] theorem read8_setF (r : Register8) : (b.setF F).read8 r = b.read8 r := by cases r <;> rfl

@[simp] theorem read16_setF (r : PortRegister16) : (b.setF F).read16 r = b.read16 r := by
  cases r with
  | reg r => cases r <;> rfl
  | reserved c => rfl

@[simp] theorem readSelector_setF (sel : RegisterSelector) : (b.setF F).readSelector sel = b.readSelector sel := by
  cases sel <;> simp [Bank.readSelector]

/-- A register write neither reads nor writes F. -/
theorem write8_setF (r : Register8) (v : Byte) : (b.setF F).write8 r v = (b.write8 r v).map (Bank.setF F) := by
  cases r <;> rfl

theorem write16_setF (r : PortRegister16) (w : Word) :
    (b.setF F).write16 r w = (b.write16 r w).map (Bank.setF F) := by
  cases r with
  | reg r => cases r <;> rfl
  | reserved c => rfl

theorem writeSelector_setF (sel : RegisterSelector) (val : RegisterValue) :
    (b.setF F).writeSelector sel val = (b.writeSelector sel val).map (Bank.setF F) := by
  cases sel with
  | r8 r =>
    cases val with
    | v8 v => exact write8_setF F b r v
    | v16 v => rfl
  | r16 r =>
    cases val with
    | v8 v => rfl
    | v16 v => exact write16_setF F b r v

end

/-! ## Two answers with one response -/

/-- Both are next states, and they hold the same response. -/
def SameResponse (a a' : Answer) : Prop := ∃ t t', a = .next t ∧ a' = .next t' ∧ t'.response = t.response

/-- The response of a read is a function of what was read. -/
theorem endRead_sameResponse (x : Except ErrorKind RegisterValue) (s s' : State) :
    SameResponse (endRead x s) (endRead x s') := by
  cases x with
  | ok v => exact ⟨_, _, endRead_ok s v, endRead_ok s' v, rfl⟩
  | error e => exact ⟨_, _, endRead_error s e, endRead_error s' e, rfl⟩

/-- The response of a write does not depend on the bank written. -/
theorem endWrite_map_sameResponse (x : Except ErrorKind Bank) (g : Bank → Bank) (s s' : State) :
    SameResponse (endWrite x s) (endWrite (x.map g) s') := by
  cases x with
  | ok b => exact ⟨_, _, endWrite_ok s b, endWrite_ok s' (g b), rfl⟩
  | error e => exact ⟨_, _, endWrite_error s e, endWrite_error s' e, rfl⟩

/-- A command other than DUMP sees no more of F than its four flags. -/
theorem exec_sameResponse_of_flags_eq (i : Instr) (s : State) (F : Byte) (hi : i ≠ .dump)
    (hF : ∀ f, readFlag f F = readFlag f s.bank.F) :
    SameResponse (exec i s) (exec i (s.setBank (s.bank.setF F))) := by
  cases i with
  | get8 r =>
    simp only [exec_get8, State.setBank_bank, read8_setF]
    exact endRead_sameResponse _ _ _
  | set8 r v =>
    simp only [exec_set8, State.setBank_bank, write8_setF]
    exact endWrite_map_sameResponse _ _ _ _
  | get16 r =>
    simp only [exec_get16, State.setBank_bank, read16_setF]
    exact endRead_sameResponse _ _ _
  | set16 r v =>
    simp only [exec_set16, State.setBank_bank, write16_setF]
    exact endWrite_map_sameResponse _ _ _ _
  | getf f => exact ⟨_, _, exec_getf _ f, exec_getf_of_readFlag_eq _ (hF f), rfl⟩
  | setf f b => exact ⟨_, _, exec_setf _ f b, exec_setf _ f b, rfl⟩
  | get sel =>
    simp only [exec_get, State.setBank_bank, readSelector_setF]
    exact endRead_sameResponse _ _ _
  | set sel val =>
    simp only [exec_set, State.setBank_bank, writeSelector_setF]
    exact endWrite_map_sameResponse _ _ _ _
  | dump => exact absurd rfl hi

/-! ## The reset bank -/

@[simp] theorem read8_reset (r : Register8) (h : r ≠ .HLind) : Bank.reset.read8 r = .ok 0x00#8 := by
  cases r with
  | HLind => exact absurd rfl h
  | A => rfl
  | B | C | D | E | H | L => decide

@[simp] theorem readFlag_reset (f : Flag) : readFlag f Bank.reset.F = false := by cases f <;> rfl

@[simp] theorem reservedBits_reset : reservedBits Bank.reset.F = 0#4 := rfl

/-! ## The obligations -/

/-- Settles O41: SETF's mask writes the bit of its own flag and keeps every other bit. -/
theorem flagsAreIndependent : Obligations.FlagsAreIndependent := by
  unfold Obligations.FlagsAreIndependent
  intro s f b
  exact ⟨_, exec_setf s f b, exec_getf_of_readFlag_eq _ (readFlag_writeFlag_same f b s.bank.F), fun g hg =>
    ⟨_, exec_getf s g, exec_getf_of_readFlag_eq _ (readFlag_writeFlag_of_ne f g b s.bank.F hg)⟩⟩

/-- Settles O46: the two writes of A are `setA`, and `BankEffect.A_eq` is the frame of every other command. -/
theorem accumulatorIsIndependent : Obligations.AccumulatorIsIndependent := by
  unfold Obligations.AccumulatorIsIndependent
  refine ⟨fun s v => ⟨endWrite_ok s (s.bank.setA v), endWrite_ok s (s.bank.setA v)⟩, fun i s h8 hset => ?_⟩
  obtain ⟨t, ht, -, heffect⟩ := exec_bankEffect i s
  exact ⟨t, ht, heffect.A_eq h8 hset⟩

/-- Settles O49: no effect on the bank touches F[7:4], and the reads behind every response but DUMP's look at the flags
at most. -/
theorem reservedFlagBitsAreUntouchedAndSeenOnlyByDump :
    Obligations.ReservedFlagBitsAreUntouchedAndSeenOnlyByDump := by
  unfold Obligations.ReservedFlagBitsAreUntouchedAndSeenOnlyByDump
  refine ⟨fun i s => ?_, reservedBits_reset, exec_sameResponse_of_flags_eq⟩
  obtain ⟨t, ht, -, heffect⟩ := exec_bankEffect i s
  exact ⟨t, ht, heffect.reservedBits_eq⟩

/-- Settles O1: the seven reset values are zero, and so is everything read from them. -/
theorem resetLeavesEveryFieldZero : Obligations.ResetLeavesEveryFieldZero := by
  unfold Obligations.ResetLeavesEveryFieldZero
  exact ⟨rfl, read8_reset, readFlag_reset, reservedBits_reset⟩

/-- Settles O36: HLind reads and writes as an error, which ends the command; the width is compared before that. -/
theorem memoryIndirectIdentifierNeverSucceeds : Obligations.MemoryIndirectIdentifierNeverSucceeds := by
  unfold Obligations.MemoryIndirectIdentifierNeverSucceeds
  intro s v w
  exact ⟨endRead_error s _, endWrite_error s _, endRead_error s _, endWrite_error s _, endWrite_error s _⟩

end Sys2Proof.Machine

/-! The proofs of the family 20_memory.md. First the simulation of a step by the view of independent bytes and flags:
reads, writes, a command, a step, and then a run. Then what SET8 does to every read, what GET8 and
GET16 answer, and the obligations. -/

namespace Sys2Proof.Machine

/-! ## What a lookup of the view is to the machine -/

/-- A lookup in the view as the machine reports it: nothing found is a selector with no storage (R201). -/
def orUnsupported {α : Type} : Option α → Except ErrorKind α
  | some x => .ok x
  | none => .error .unsupportedRegister

@[simp] theorem orUnsupported_some {α : Type} (x : α) : orUnsupported (some x) = .ok x := rfl

@[simp] theorem orUnsupported_none {α : Type} : orUnsupported (none : Option α) = .error .unsupportedRegister := rfl

@[simp] theorem map_orUnsupported {α β : Type} (g : α → β) (x : Option α) :
    (orUnsupported x).map g = orUnsupported (x.map g) := by cases x <;> rfl

/-! ## Registers, flags and the snapshot through the view -/

section
variable (b : Bank)

theorem read8_eq_byte? (r : Register8) : b.read8 r = orUnsupported (b.view.byte? r) := by cases r <;> rfl

theorem read16_eq_word? (r : PortRegister16) : b.read16 r = orUnsupported (b.view.word? r) := by
  cases r with
  | reg r =>
    cases r with
    | BC => exact congrArg Except.ok (append_halves b.BC).symm
    | DE => exact congrArg Except.ok (append_halves b.DE).symm
    | HL => exact congrArg Except.ok (append_halves b.HL).symm
    | SP | PC => rfl
  | reserved c => rfl

@[simp] theorem view_B : b.view.B = highByte b.BC := rfl
@[simp] theorem view_C : b.view.C = lowByte b.BC := rfl
@[simp] theorem view_D : b.view.D = highByte b.DE := rfl
@[simp] theorem view_E : b.view.E = lowByte b.DE := rfl
@[simp] theorem view_H : b.view.H = highByte b.HL := rfl
@[simp] theorem view_L : b.view.L = lowByte b.HL := rfl

@[simp] theorem view_setBC (w : Word) : (b.setBC w).view = { b.view with B := highByte w, C := lowByte w } := rfl

@[simp] theorem view_setDE (w : Word) : (b.setDE w).view = { b.view with D := highByte w, E := lowByte w } := rfl

@[simp] theorem view_setHL (w : Word) : (b.setHL w).view = { b.view with H := highByte w, L := lowByte w } := rfl

/-- Writing one half of a pair replaces one byte of the view (R101). -/
theorem view_write8 (r : Register8) (v : Byte) :
    (b.write8 r v).map Bank.view = orUnsupported (b.view.setByte? v r) := by
  cases r with
  | HLind | A => rfl
  | B | C | D | E | H | L => simp [Bank.write8, Except.map, ByteView.setByte?]

theorem view_write16 (r : PortRegister16) (w : Word) :
    (b.write16 r w).map Bank.view = orUnsupported (b.view.setWord? w r) := by
  cases r with
  | reg r => cases r <;> rfl
  | reserved c => rfl

theorem readFlag_eq_flag (f : Flag) : readFlag f b.F = b.view.flag f := by cases f <;> rfl

/-- The view of the flags byte: the four flags and the reserved bits (R28, R29). -/
theorem view_setF (F : Byte) : (b.setF F).view =
    { b.view with flagZ := readFlag .Z F, flagN := readFlag .N F, flagH := readFlag .H F, flagC := readFlag .C F,
                  reserved := reservedBits F } := rfl

/-- SETF replaces one flag of the view (R131). -/
theorem view_writeFlag (f : Flag) (c : Bool) :
    (b.setF (writeFlag f c b.F)).view = b.view.setFlag c f := by
  have hkept (g) (hg : g ≠ f) : readFlag g (writeFlag f c b.F) = b.view.flag g := by
    rw [readFlag_writeFlag_of_ne f g c b.F hg, readFlag_eq_flag]
  have hreserved : reservedBits b.F = b.view.reserved := rfl
  cases f <;> simp [view_setF, hkept, hreserved, ByteView.setFlag, ByteView.flag]

/-- The flags byte is its reserved bits and its four flags (R28, R29). -/
theorem F_eq_append : b.F = b.view.reserved ++ BitVec.ofBool b.view.flagC ++ BitVec.ofBool b.view.flagH ++
    BitVec.ofBool b.view.flagN ++ BitVec.ofBool b.view.flagZ := by
  refine BitVec.eq_of_getLsbD_eq fun i hi => Eq.trans ?_ BitVec.getLsbD_append.symm
  simp only [BitVec.getLsbD_append]
  interval_cases i <;> simp [Bank.view]

/-- A pair behind other fields is its two halves behind them. -/
theorem append_pair {n : Nat} (x : BitVec n) (pair : Word) : x ++ pair = x ++ highByte pair ++ lowByte pair := by
  rw [BitVec.append_assoc, append_halves]; rfl

theorem snapshot_eq : b.snapshot = b.view.snapshot := by
  rw [Bank.snapshot, ByteView.snapshot, ← F_eq_append, append_pair _ b.BC, append_pair _ b.DE, append_pair _ b.HL]
  rfl

end

/-! ## The simulation: a command, a step and a run -/

/-- A next state with the inputs `ps` still to come, whose view and response are those of `vr`. -/
def AnswersAs (a : Answer) (ps : List PortInput) (vr : ByteView × Response) : Prop :=
  ∃ t, a = .next t ∧ t.pending = ps ∧ t.bank.view = vr.1 ∧ t.response = vr.2

section
variable (s : State)

theorem endRead_answersAs (x : Option RegisterValue) :
    AnswersAs (endRead (orUnsupported x) s) s.pending (s.bank.view.endRead x) := by
  cases x with
  | some v => exact ⟨_, endRead_ok s v, rfl, rfl, rfl⟩
  | none => exact ⟨_, endRead_error s _, rfl, rfl, rfl⟩

theorem endWrite_answersAs {x : Except ErrorKind Bank} {y : Option ByteView} (h : x.map Bank.view = orUnsupported y) :
    AnswersAs (endWrite x s) s.pending (s.bank.view.endWrite y) := by
  cases x with
  | ok b =>
    cases y with
    | some v => exact ⟨_, endWrite_ok s b, rfl, Except.ok.inj h, rfl⟩
    | none => cases h
  | error e =>
    cases y with
    | some v => cases h
    | none => exact ⟨_, endWrite_error s e, rfl, rfl, congrArg Response.error (Except.error.inj h)⟩

theorem read8_answersAs (r : Register8) : AnswersAs (endRead ((s.bank.read8 r).map .v8) s) s.pending
    (s.bank.view.endRead ((s.bank.view.byte? r).map .v8)) := by
  rw [read8_eq_byte?, map_orUnsupported]
  exact endRead_answersAs s _

theorem read16_answersAs (r : PortRegister16) : AnswersAs (endRead ((s.bank.read16 r).map .v16) s) s.pending
    (s.bank.view.endRead ((s.bank.view.word? r).map .v16)) := by
  rw [read16_eq_word?, map_orUnsupported]
  exact endRead_answersAs s _

theorem write8_answersAs (r : Register8) (v : Byte) :
    AnswersAs (endWrite (s.bank.write8 r v) s) s.pending (s.bank.view.endWrite (s.bank.view.setByte? v r)) :=
  endWrite_answersAs s (view_write8 s.bank r v)

theorem write16_answersAs (r : PortRegister16) (w : Word) :
    AnswersAs (endWrite (s.bank.write16 r w) s) s.pending (s.bank.view.endWrite (s.bank.view.setWord? w r)) :=
  endWrite_answersAs s (view_write16 s.bank r w)

/-- A command on the stored state is the command on its view. -/
theorem exec_answersAs (i : Instr) : AnswersAs (exec i s) s.pending (s.bank.view.perform i) := by
  cases i with
  | get8 r => exact read8_answersAs s r
  | set8 r v => exact write8_answersAs s r v
  | get16 r => exact read16_answersAs s r
  | set16 r w => exact write16_answersAs s r w
  | getf f => exact ⟨_, exec_getf_of_readFlag_eq s (readFlag_eq_flag s.bank f), rfl, rfl, rfl⟩
  | setf f c => exact ⟨_, exec_setf s f c, rfl, view_writeFlag s.bank f c, rfl⟩
  | get sel =>
    cases sel with
    | r8 r => exact read8_answersAs s r
    | r16 r => exact read16_answersAs s r
  | set sel val =>
    cases sel with
    | r8 r =>
      cases val with
      | v8 v => exact write8_answersAs s r v
      | v16 w => exact ⟨_, endWrite_error s _, rfl, rfl, rfl⟩
    | r16 r =>
      cases val with
      | v8 v => exact ⟨_, endWrite_error s _, rfl, rfl, rfl⟩
      | v16 w => exact write16_answersAs s r w
  | dump => exact ⟨_, exec_dump s, rfl, rfl, congrArg (Response.ok ∘ Result.snapshot) (snapshot_eq s.bank)⟩

@[simp] theorem view_reset : Bank.reset.view = ByteView.zero := by decide

/-- An input on the stored state is the input on its view (R246). -/
theorem performInput_answersAs (p : PortInput) :
    AnswersAs (performInput p s) s.pending (s.bank.view.step p) := by
  unfold ByteView.step
  obtain ⟨hr, h⟩ | ⟨hr, hv, h⟩ | ⟨hr, hv, e, hd, h⟩ | ⟨hr, hv, i, hd, h⟩ := performInput_cases p s
  · simp only [hr, if_true]
    exact ⟨_, h, rfl, view_reset, rfl⟩
  · simp only [hr, hv, Bool.false_eq_true, if_false]
    exact ⟨_, h, rfl, rfl, rfl⟩
  · simp only [hr, hv, hd, Bool.false_eq_true, if_false, if_true]
    exact ⟨_, h, rfl, rfl, rfl⟩
  · simp only [hr, hv, hd, h, Bool.false_eq_true, if_false, if_true]
    exact exec_answersAs s i

/-- A step takes the oldest input of the stream and answers it as the view does (R50, R246). -/
theorem step_answersAs : AnswersAs (step s) s.pending.tail (s.bank.view.step s.nextInput) :=
  performInput_answersAs s.takeInput s.nextInput

end

/-- The input `p` at the front of the stream is answered as the view answers it, and the rest is still to come. -/
theorem step_answersAs_of_pending {s : State} {p : PortInput} {qs : List PortInput} (hs : s.pending = p :: qs) :
    AnswersAs (step s) qs (s.bank.view.step p) := by
  have h := step_answersAs s
  rwa [State.nextInput, hs] at h

section
variable {s t : State}

theorem core_run_succ (k : Nat) (h : step s = .next t) : core.run (k + 1) s = core.run k t := by
  have h : core.step s = .next t := h
  simp only [Host.Core.run, h]

/-- A run of `j + k` steps is `j` steps and then `k` steps. -/
theorem core_run_add {j : Nat} (k : Nat) (h : core.run j s = .next t) : core.run (j + k) s = core.run k t := by
  induction j generalizing s with
  | zero =>
    obtain rfl : s = t := Host.Outcome.next.inj h
    rw [Nat.zero_add]
  | succ j ih =>
    obtain ⟨b, r, hstep⟩ := step_answers s
    rw [core_run_succ j hstep] at h
    rw [Nat.add_right_comm, core_run_succ _ hstep, ih h]

end

/-- As many steps as there are inputs before `qs` perform those inputs on the view, in their order (R50). -/
theorem core_run_stream (ps : List PortInput) (s : State) {qs : List PortInput} (hs : s.pending = ps ++ qs) :
    ∃ t, core.run ps.length s = .next t ∧ t.bank.view = s.bank.view.stream ps ∧ t.pending = qs := by
  induction ps generalizing s with
  | nil => exact ⟨s, rfl, rfl, hs⟩
  | cons p ps ih =>
    obtain ⟨u, hu, hpending, hview, -⟩ := step_answersAs_of_pending hs
    obtain ⟨t, ht, htview, htpending⟩ := ih u hpending
    refine ⟨t, (core_run_succ _ hu).trans ht, ?_, htpending⟩
    rw [htview, hview, ByteView.stream, ByteView.stream, List.foldl_cons]

/-! ## What SET8 does to every read -/

/-- A bank is what its 8-bit registers read, with F, SP and PC (R23). -/
theorem bank_eq_of_reads {a b : Bank} (hread : ∀ r, a.read8 r = b.read8 r) (hF : a.F = b.F) (hSP : a.SP = b.SP)
    (hPC : a.PC = b.PC) : a = b := by
  have pair_eq {p q : Word} (hhi : Except.ok (ε := ErrorKind) (highByte p) = .ok (highByte q))
      (hlo : Except.ok (ε := ErrorKind) (lowByte p) = .ok (lowByte q)) : p = q := by
    rw [← append_halves p, ← append_halves q, Except.ok.inj hhi, Except.ok.inj hlo]
  have hA : a.A = b.A := Except.ok.inj (hread .A)
  have hBC : a.BC = b.BC := pair_eq (hread .B) (hread .C)
  have hDE : a.DE = b.DE := pair_eq (hread .D) (hread .E)
  have hHL : a.HL = b.HL := pair_eq (hread .H) (hread .L)
  cases a
  cases b
  simp_all only

/-- SET8 replaces what its own register reads, if that reads at all, and nothing else (R101). -/
theorem exec_set8_reads (s : State) (r : Register8) (v : Byte) :
    ∃ t, exec (.set8 r v) s = .next t ∧
      (∀ x, t.bank.read8 x = if x = r then (s.bank.read8 x).map fun _ => v else s.bank.read8 x) ∧
      t.bank.F = s.bank.F ∧ t.bank.SP = s.bank.SP ∧ t.bank.PC = s.bank.PC := by
  by_cases hr : r = .HLind
  · subst hr
    refine ⟨_, endWrite_error s _, fun x => ?_, rfl, rfl, rfl⟩
    split
    · next hx => subst hx; rfl
    · rfl
  · obtain ⟨b, hb⟩ := write8_isOk s.bank v r hr
    obtain ⟨hsame, hother, hkept⟩ := write8_spec s.bank v r b hb
    obtain ⟨y, hy⟩ := read8_isOk s.bank r hr
    refine ⟨_, by rw [exec_set8, hb, endWrite_ok], fun x => ?_, hkept⟩
    split
    · next hx => subst hx; rw [hy]; exact hsame
    · next hx => exact hother x hx

/-! ## What GET8 and GET16 answer, and the halves of a pair -/

/-- What the two halves of a pair read, and what the pair reads (R43). -/
theorem read16_eq_append_halves (b : Bank) {hi lo : Register8} {pair : Register16}
    (h : (hi, lo, pair) ∈ [(Register8.B, Register8.C, Register16.BC), (.D, .E, .DE), (.H, .L, .HL)]) :
    ∃ x y : Byte, b.read8 hi = .ok x ∧ b.read8 lo = .ok y ∧ b.read16 (.reg pair) = .ok (x ++ y) := by
  simp only [List.mem_cons, Prod.mk.injEq, List.not_mem_nil, or_false] at h
  obtain ⟨rfl, rfl, rfl⟩ | ⟨rfl, rfl, rfl⟩ | ⟨rfl, rfl, rfl⟩ := h <;>
    exact ⟨_, _, rfl, rfl, read16_eq_word? b _⟩

section
variable {s : State}

theorem exec_get8_of_read8_eq {r : Register8} {x : Byte} (h : s.bank.read8 r = .ok x) :
    exec (.get8 r) s = .next (s.setResponse (.ok (.register (.v8 x)))) := by
  rw [exec_get8, h]
  exact endRead_ok s _

theorem exec_get16_of_read16_eq {r : PortRegister16} {x : Word} (h : s.bank.read16 r = .ok x) :
    exec (.get16 r) s = .next (s.setResponse (.ok (.register (.v16 x)))) := by
  rw [exec_get16, h]
  exact endRead_ok s _

end

/-! ## The obligations -/

/-- Settles O55: `core_run_stream` brings the run to `p`, and one more step answers `p` as the view does. -/
theorem runPerformsStreamInOrder : Obligations.RunPerformsStreamInOrder := by
  unfold Obligations.RunPerformsStreamInOrder
  intro b resp ps qs
  refine ⟨core_run_stream ps _ rfl, fun p => ?_⟩
  obtain ⟨t, ht, hview, hpending⟩ :=
    core_run_stream ps { bank := b, pending := ps ++ [p] ++ qs, response := resp } (List.append_assoc ps [p] qs)
  obtain ⟨u, hu, hupending, huview, huresponse⟩ := step_answersAs_of_pending hpending
  rw [hview] at huview huresponse
  refine ⟨u, ?_, huresponse, huview, hupending⟩
  rw [List.length_append, core_run_add _ ht]
  exact core_run_succ 0 hu

/-- Settles O42: two writes replace what two different registers read, and the reads determine the bank. -/
theorem halfWritesCommute : Obligations.HalfWritesCommute := by
  unfold Obligations.HalfWritesCommute
  intro s r q v w hrq
  obtain ⟨t, ht, htread, htF, htSP, htPC⟩ := exec_set8_reads s r v
  obtain ⟨u, hu, huread, huF, huSP, huPC⟩ := exec_set8_reads t q w
  obtain ⟨t', ht', htread', htF', htSP', htPC'⟩ := exec_set8_reads s q w
  obtain ⟨u', hu', huread', huF', huSP', huPC'⟩ := exec_set8_reads t' r v
  refine ⟨t, t', u, u', ht, hu, ht', hu', bank_eq_of_reads (fun x => ?_) ?_ ?_ ?_⟩
  · rw [huread, htread, huread', htread']
    split
    · next hxq => subst hxq; simp only [if_neg hrq.symm]
    · rfl
  · rw [huF, htF, huF', htF']
  · rw [huSP, htSP, huSP', htSP']
  · rw [huPC, htPC, huPC', htPC']

/-- Settles O45: GET8 and GET16 answer what the registers read, and a pair reads as its two halves. -/
theorem pairIsHighByteThenLowByte : Obligations.PairIsHighByteThenLowByte := by
  unfold Obligations.PairIsHighByteThenLowByte
  intro s hi lo pair hmem
  obtain ⟨x, y, hx, hy, hpair⟩ := read16_eq_append_halves s.bank hmem
  exact ⟨x, y, exec_get8_of_read8_eq hx, exec_get8_of_read8_eq hy, exec_get16_of_read16_eq hpair⟩

end Sys2Proof.Machine

/-! The proofs of the family 30_encoding.md. First which commands the decoder rejects and what the words of the 16-bit
formats decode to, then what a decoded command can answer, and the obligations. -/

namespace Sys2Proof

/-! ## The `op` field -/

/-- The code of a command in `op` (R67). -/
def Op.code : Op → BitVec 4
  | .get8 => 0x0#4
  | .set8 => 0x1#4
  | .get16 => 0x2#4
  | .set16 => 0x3#4
  | .getf => 0x4#4
  | .setf => 0x5#4
  | .get => 0x6#4
  | .set => 0x7#4
  | .dump => 0x8#4

theorem eq_code_of_opOfCode_eq_some {op : BitVec 4} {o : Op} (h : opOfCode op = some o) : op = o.code := by
  cases o <;> revert op <;> decide

theorem reserved_of_opOfCode_eq_none : ∀ {op : BitVec 4}, opOfCode op = none → 0x9#4 ≤ op := by decide

/-! ## The commands that the decoder rejects -/

theorem flagSelReserved_iff : ∀ cmd : Byte,
    flagSelReserved cmd = true ↔ cmd.getLsbD 2 = true ∨ cmd.getLsbD 3 = true := by decide

theorem isByteOperand_iff (wdata : Word) : isByteOperand wdata = true ↔ wdata.extractLsb' 8 8 = 0x00#8 :=
  beq_iff_eq

theorem isBitOperand_iff (wdata : Word) : isBitOperand wdata = true ↔ wdata.extractLsb' 1 15 = 0#15 :=
  beq_iff_eq

/-- The illegal commands of R69: a reserved `op`, a reserved bit of `sel` in F8 and F16, in FF and in DUMP's format, and a
byte or bit operand that is wider (R70). -/
def IllegalEncoding (cmd : Byte) (wdata : Word) (wtag : Bool) : Prop :=
  0x9#4 ≤ opField cmd ∨
  (opField cmd ≤ 0x3#4 ∧ selBit3 cmd = true) ∨
  ((opField cmd = 0x4#4 ∨ opField cmd = 0x5#4) ∧ (cmd.getLsbD 2 = true ∨ cmd.getLsbD 3 = true)) ∨
  (opField cmd = 0x8#4 ∧ selField cmd ≠ 0x0#4) ∨
  ((opField cmd = 0x1#4 ∨ (opField cmd = 0x7#4 ∧ wtag = false)) ∧ wdata.extractLsb' 8 8 ≠ 0x00#8) ∨
  (opField cmd = 0x5#4 ∧ wdata.extractLsb' 1 15 ≠ 0#15)

/-- A check of the decoder rejects a command on its own ground, or what comes after it does. -/
theorem exists_check_eq_error {p : Prop} [Decidable p] (ground : DecodeError) (rest : Except DecodeError Instr) :
    (∃ e, (if p then .error ground else rest) = .error e) ↔ p ∨ ∃ e, rest = .error e := by
  split <;> simp [*]

/-- The decoder rejects exactly the illegal commands. -/
theorem decode_error_iff (cmd : Byte) (wdata : Word) (wtag : Bool) :
    (∃ e, decode cmd wdata wtag = .error e) ↔ IllegalEncoding cmd wdata wtag := by
  cases hop : opOfCode (opField cmd) with
  | none => simp [decode, hop, IllegalEncoding, reserved_of_opOfCode_eq_none hop]
  | some o =>
    have hcode := eq_code_of_opOfCode_eq_some hop
    rw [decode, hop, IllegalEncoding, hcode]
    simp only [← flagSelReserved_iff, ne_eq, ← isByteOperand_iff, ← isBitOperand_iff]
    -- Each check of the command's decoding is one ground of R69, and its code excludes the grounds of the other formats.
    cases o <;> simp only [exists_check_eq_error] <;> simp [Op.code]

/-! ## The words of the 16-bit formats -/

section
variable (c : BitVec 3) (wdata : Word) (wtag : Bool)

theorem decode_get16_word :
    decode (joinCmd 0x2#4 (joinSel 0#1 c)) wdata wtag = .ok (.get16 (r16OfCode c)) := by
  simp [decode, opOfCode]

theorem decode_set16_word :
    decode (joinCmd 0x3#4 (joinSel 0#1 c)) wdata wtag = .ok (.set16 (r16OfCode c) wdata) := by
  simp [decode, opOfCode]

theorem decode_get_r16_word :
    decode (joinCmd 0x6#4 (joinSel 1#1 c)) wdata wtag = .ok (.get (.r16 (r16OfCode c))) := by
  simp [decode, opOfCode, selectorOfCode]

theorem decode_set_r16_word :
    decode (joinCmd 0x7#4 (joinSel 1#1 c)) wdata true = .ok (.set (.r16 (r16OfCode c)) (.v16 wdata)) := by
  simp [decode, opOfCode, selectorOfCode, valueOperand]

end

/-! ## The codes of pairs and flags -/

theorem r16OfCode_eq_reserved : ∀ c ∈ [5#3, 6#3, 7#3], r16OfCode c = .reserved c := by decide

/-- PC's code is 4, so two bits do not hold it (R61). -/
theorem r16OfCode_setWidth_ne_PC (c : BitVec 2) : r16OfCode (c.setWidth 3) ≠ .reg .PC := by
  intro h
  have hcode : c.setWidth 3 = 4#3 := by rw [← r16Code_r16OfCode (c.setWidth 3), h]; rfl
  bv_omega

namespace Machine

theorem bitpos_eq_flagCode (f : Flag) : bitpos f = (flagCode f).toNat := by cases f <;> rfl

/-! ## A presented command -/

section
variable (s : State) {cmd : Byte} {wdata : Word} {wtag : Bool}

theorem step_presenting_of_decode_error (h : ∃ e, decode cmd wdata wtag = .error e) :
    step (s.presenting ⟨cmd, wdata, wtag⟩) = .next (s.setResponse (.error .illegalCommand)) := by
  obtain ⟨e, he⟩ := h
  simp [performInput, PortInput.present, he, illegalStep]

theorem step_presenting_of_decode_ok {i : Instr} (h : decode cmd wdata wtag = .ok i) :
    step (s.presenting ⟨cmd, wdata, wtag⟩) = exec i s := by
  simp [performInput, PortInput.present, h]

end

/-! ## What a decoded command can answer -/

/-- No command on independent bytes and flags ends in IllegalCommand: that error is the decoder's alone (R203). -/
theorem perform_response_ne_illegalCommand (v : ByteView) (i : Instr) :
    (v.perform i).2 ≠ .error .illegalCommand := by
  have read (x) : (v.endRead x).2 ≠ .error .illegalCommand := by cases x <;> simp [ByteView.endRead]
  have write (x) : (v.endWrite x).2 ≠ .error .illegalCommand := by cases x <;> simp [ByteView.endWrite]
  cases i with
  | get8 r => exact read _
  | set8 r x => exact write _
  | get16 r => exact read _
  | set16 r x => exact write _
  | getf f => simp [ByteView.perform]
  | setf f b => simp [ByteView.perform]
  | get sel =>
    cases sel with
    | r8 r => exact read _
    | r16 r => exact read _
  | set sel val =>
    cases sel with
    | r8 r =>
      cases val with
      | v8 x => exact write _
      | v16 x => simp [ByteView.perform]
    | r16 r =>
      cases val with
      | v8 x => simp [ByteView.perform]
      | v16 x => exact write _
  | dump => simp [ByteView.perform]

theorem exec_response_ne_illegalCommand (i : Instr) (s : State) :
    ∃ t, exec i s = .next t ∧ t.response ≠ .error .illegalCommand := by
  obtain ⟨t, ht, -, -, hresponse⟩ := exec_answersAs s i
  exact ⟨t, ht, hresponse ▸ perform_response_ne_illegalCommand s.bank.view i⟩

/-! ## The reserved 16-bit codes -/

section
variable (s : State) (c : BitVec 3) (v : Word)

theorem exec_get16_reserved :
    exec (.get16 (.reserved c)) s = .next (s.setResponse (.error .unsupportedRegister)) := endRead_error s _

theorem exec_set16_reserved :
    exec (.set16 (.reserved c) v) s = .next (s.setResponse (.error .unsupportedRegister)) := endWrite_error s _

theorem exec_get_reserved :
    exec (.get (.r16 (.reserved c))) s = .next (s.setResponse (.error .unsupportedRegister)) := endRead_error s _

theorem exec_set_reserved :
    exec (.set (.r16 (.reserved c)) (.v16 v)) s = .next (s.setResponse (.error .unsupportedRegister)) :=
  endWrite_error s _

end

/-! ## The obligations -/

/-- Settles O15: the decoder rejects exactly the illegal commands, no command it accepts ends in IllegalCommand, and the
reserved codes are accepted but read and write no register. -/
theorem illegalCommandsAreExactlyThese : Obligations.IllegalCommandsAreExactlyThese := by
  unfold Obligations.IllegalCommandsAreExactlyThese
  intro s cmd wdata wtag op illegal
  have hillegal : (∃ e, decode cmd wdata wtag = .error e) ↔ illegal := decode_error_iff cmd wdata wtag
  refine ⟨fun h => step_presenting_of_decode_error s (hillegal.mpr h), fun h => ?_, rfl, fun c hc => ?_⟩
  · cases hd : decode cmd wdata wtag with
    | error e => exact absurd (hillegal.mp ⟨e, hd⟩) h
    | ok i =>
      rw [step_presenting_of_decode_ok s hd]
      exact exec_response_ne_illegalCommand i s
  · have hcode := r16OfCode_eq_reserved c hc
    exact ⟨(step_presenting_of_decode_ok s (decode_get16_word c wdata wtag)).trans (hcode ▸ exec_get16_reserved s c),
      (step_presenting_of_decode_ok s (decode_set16_word c wdata wtag)).trans (hcode ▸ exec_set16_reserved s c wdata),
      (step_presenting_of_decode_ok s (decode_get_r16_word c wdata wtag)).trans (hcode ▸ exec_get_reserved s c),
      (step_presenting_of_decode_ok s (decode_set_r16_word c wdata)).trans (hcode ▸ exec_set_reserved s c wdata)⟩

/-- Settles O10: PC's code does not fit in two bits, and a flag is at the bit that its code numbers. -/
theorem pairAndFlagCodes : Obligations.PairAndFlagCodes := by
  unfold Obligations.PairAndFlagCodes
  refine ⟨rfl, rfl, rfl, rfl, r16OfCode_setWidth_ne_PC, rfl, rfl, rfl, rfl, fun c => ?_⟩
  rw [bitpos_eq_flagCode, flagCode_flagOfCode]

/-- Settles O11: the reserved codes decode to themselves, and every access to one is an error. -/
theorem reservedSixteenBitCodesNameNoRegister : Obligations.ReservedSixteenBitCodesNameNoRegister := by
  unfold Obligations.ReservedSixteenBitCodesNameNoRegister
  exact ⟨rfl, rfl, rfl, rfl, rfl, fun c hc => ⟨r16OfCode_eq_reserved c hc, fun v s =>
    ⟨exec_get16_reserved s c, exec_set16_reserved s c v, exec_get_reserved s c, exec_set_reserved s c v⟩⟩⟩

/-- Settles O21: each kind of result and each error has its own row of wires (R72, R73). -/
theorem responseOnTheWires : Obligations.ResponseOnTheWires := by
  unfold Obligations.ResponseOnTheWires
  exact ⟨fun _ => rfl, fun _ => rfl, rfl, rfl, rfl, fun _ => rfl, rfl, rfl, rfl⟩

end Machine

end Sys2Proof

/-! The proofs of the family 40_access8.md. First what the words of the 8-bit format decode to and what an 8-bit write
ends in, then the obligations. -/

namespace Sys2Proof

/-! ## The words of the 8-bit format -/

section
variable (c : BitVec 3) (wdata : Word) (wtag : Bool)

theorem decode_get8_word :
    decode (joinCmd 0x0#4 (joinSel 0#1 c)) wdata wtag = .ok (.get8 (r8OfCode c)) := by
  simp [decode, opOfCode]

/-- SET8's word checks that its operand is a byte, and takes it whole (R70). -/
theorem decode_set8_word :
    decode (joinCmd 0x1#4 (joinSel 0#1 c)) wdata wtag =
      if isByteOperand wdata then .ok (.set8 (r8OfCode c) (byteOperand wdata)) else .error .wideOperand := by
  cases h : isByteOperand wdata <;> simp [decode, opOfCode, h]

theorem decode_set8_word_of_byte (v : Byte) :
    decode (joinCmd 0x1#4 (joinSel 0#1 c)) (v.setWidth 16) wtag = .ok (.set8 (r8OfCode c) v) := by
  rw [decode_set8_word, if_pos (isByteOperand_setWidth v), byteOperand_setWidth]

theorem decode_set8_word_of_wide {wdata : Word} (h : wdata.extractLsb' 8 8 ≠ 0x00#8) :
    decode (joinCmd 0x1#4 (joinSel 0#1 c)) wdata wtag = .error .wideOperand := by
  rw [decode_set8_word, if_neg (mt (isByteOperand_iff wdata).mp h)]

end

namespace Machine

/-! ## What SET8 ends in -/

theorem exec_set8_of_write8_eq {s : State} {r : Register8} {v : Byte} {b : Bank} (h : s.bank.write8 r v = .ok b) :
    exec (.set8 r v) s = .next ((s.setBank b).setResponse (.ok .noValue)) := by
  rw [exec_set8, h]
  exact endWrite_ok s b

/-! ## The obligations -/

/-- Settles O22: each register reads as its byte of the bank, HLind reads as an error, and every word of the format
decodes to GET8 of its code. -/
theorem get8AnswersNamedByte : Obligations.Get8AnswersNamedByte := by
  unfold Obligations.Get8AnswersNamedByte
  intro s
  exact ⟨exec_get8_of_read8_eq rfl, exec_get8_of_read8_eq rfl, exec_get8_of_read8_eq rfl, exec_get8_of_read8_eq rfl,
    exec_get8_of_read8_eq rfl, exec_get8_of_read8_eq rfl, exec_get8_of_read8_eq rfl, endRead_error s _,
    fun c wdata wtag => step_presenting_of_decode_ok s (decode_get8_word c wdata wtag), fun _ => rfl⟩

/-- Settles O23: each register's write is its masked merge, HLind's is an error, and a word of the format decodes to SET8
of its code exactly when its operand is a byte. -/
theorem set8ReplacesNamedByte : Obligations.Set8ReplacesNamedByte := by
  unfold Obligations.Set8ReplacesNamedByte
  intro s v
  refine ⟨exec_set8_of_write8_eq rfl, exec_set8_of_write8_eq rfl, exec_set8_of_write8_eq rfl,
    exec_set8_of_write8_eq rfl, exec_set8_of_write8_eq rfl, exec_set8_of_write8_eq rfl, exec_set8_of_write8_eq rfl,
    endWrite_error s _, fun c wdata wtag => ⟨fun hbyte => ?_, fun hwide => ?_⟩, rfl⟩
  · subst hbyte
    exact step_presenting_of_decode_ok s (decode_set8_word_of_byte c wtag v)
  · exact step_presenting_of_decode_error s ⟨_, decode_set8_word_of_wide c wtag hwide⟩

end Machine

end Sys2Proof

/-! The proofs of the family 41_access16.md. First what a 16-bit write ends in and that GET16 reads it back, then the
obligations. -/

namespace Sys2Proof.Machine

/-! ## What SET16 ends in -/

theorem exec_set16_of_write16_eq {s : State} {v : Word} {r : PortRegister16} {b : Bank}
    (h : s.bank.write16 r v = .ok b) :
    exec (.set16 r v) s = .next ((s.setBank b).setResponse (.ok .noValue)) := by
  rw [exec_set16, h]
  exact endWrite_ok s b

/-- After SET16 of a register, GET16 of it answers the value written. -/
theorem exec_get16_after_set16 (s : State) (v : Word) (r : Register16) :
    ∃ t, exec (.set16 (.reg r) v) s = .next t ∧
      exec (.get16 (.reg r)) t = .next (t.setResponse (.ok (.register (.v16 v)))) := by
  obtain ⟨b, hwrite, hread, -⟩ := write16_spec s.bank v r
  exact ⟨_, exec_set16_of_write16_eq hwrite, exec_get16_of_read16_eq hread⟩

/-! ## The obligations -/

/-- Settles O24: each register reads as its word of the bank, a reserved code reads as an error, and every word of the
format decodes to GET16 of its code. -/
theorem get16AnswersNamedWord : Obligations.Get16AnswersNamedWord := by
  unfold Obligations.Get16AnswersNamedWord
  intro s
  exact ⟨exec_get16_of_read16_eq rfl, exec_get16_of_read16_eq rfl, exec_get16_of_read16_eq rfl,
    exec_get16_of_read16_eq rfl, exec_get16_of_read16_eq rfl, exec_get16_reserved s,
    fun c wdata wtag => step_presenting_of_decode_ok s (decode_get16_word c wdata wtag), fun _ => rfl⟩

/-- Settles O25: each register's write replaces its word of the bank, a reserved code's is an error, every word of the
format decodes to SET16 of its code with the whole operand, and the register written reads the value. -/
theorem set16ReplacesNamedWord : Obligations.Set16ReplacesNamedWord := by
  unfold Obligations.Set16ReplacesNamedWord
  intro s v
  exact ⟨exec_set16_of_write16_eq rfl, exec_set16_of_write16_eq rfl, exec_set16_of_write16_eq rfl,
    exec_set16_of_write16_eq rfl, exec_set16_of_write16_eq rfl, fun c => exec_set16_reserved s c v,
    fun c wtag => step_presenting_of_decode_ok s (decode_set16_word c v wtag), exec_get16_after_set16 s v, rfl⟩

end Sys2Proof.Machine

/-! The proofs of the family 42_generic.md. First what the words of the generic format decode to, then which command GET
and SET are on each selector, and the obligations. -/

namespace Sys2Proof

/-! ## The words of the generic format -/

section
variable (t : Bool) (c : BitVec 3) (wdata : Word) (wtag : Bool)

theorem decode_get_r8_word :
    decode (joinCmd 0x6#4 (joinSel 0#1 c)) wdata wtag = .ok (.get (.r8 (r8OfCode c))) := by
  simp [decode, opOfCode, selectorOfCode]

/-- SET's word takes `wdata` whole as a 16-bit value when `wtag` is 1 (R70, R71). -/
theorem decode_set_word_v16 :
    decode (joinCmd 0x7#4 (joinSel (BitVec.ofBool t) c)) wdata true = .ok (.set (selectorOfCode t c) (.v16 wdata)) := by
  cases t <;> simp [decode, opOfCode, valueOperand]

/-- When `wtag` is 0, SET's word checks that its operand is a byte, and takes it whole (R70, R71). -/
theorem decode_set_word_v8 :
    decode (joinCmd 0x7#4 (joinSel (BitVec.ofBool t) c)) wdata false =
      if isByteOperand wdata then .ok (.set (selectorOfCode t c) (.v8 (byteOperand wdata))) else .error .wideOperand := by
  cases h : isByteOperand wdata <;> cases t <;> simp [decode, opOfCode, valueOperand, h]

theorem decode_set_word_of_byte (v : Byte) :
    decode (joinCmd 0x7#4 (joinSel (BitVec.ofBool t) c)) (v.setWidth 16) false =
      .ok (.set (selectorOfCode t c) (.v8 v)) := by
  rw [decode_set_word_v8, if_pos (isByteOperand_setWidth v), byteOperand_setWidth]

theorem decode_set_word_of_wide {wdata : Word} (h : wdata.extractLsb' 8 8 ≠ 0x00#8) :
    decode (joinCmd 0x7#4 (joinSel (BitVec.ofBool t) c)) wdata false = .error .wideOperand := by
  rw [decode_set_word_v8, if_neg (mt (isByteOperand_iff wdata).mp h)]

end

namespace Machine

/-! ## GET and SET as the commands of one width -/

section
variable (s : State)

theorem exec_get_r8 (r : Register8) : exec (.get (.r8 r)) s = exec (.get8 r) s := rfl

theorem exec_get_r16 (r : PortRegister16) : exec (.get (.r16 r)) s = exec (.get16 r) s := rfl

theorem exec_set_r8_v8 (r : Register8) (v : Byte) : exec (.set (.r8 r) (.v8 v)) s = exec (.set8 r v) s := rfl

theorem exec_set_r16_v16 (r : PortRegister16) (w : Word) :
    exec (.set (.r16 r) (.v16 w)) s = exec (.set16 r w) s := rfl

/-- The widths are compared before the register is looked at (R121, R204). -/
theorem exec_set_r8_v16 (r : Register8) (w : Word) :
    exec (.set (.r8 r) (.v16 w)) s = .next (s.setResponse (.error .widthMismatch)) := endWrite_error s _

theorem exec_set_r16_v8 (r : PortRegister16) (v : Byte) :
    exec (.set (.r16 r) (.v8 v)) s = .next (s.setResponse (.error .widthMismatch)) := endWrite_error s _

end

/-! ## The commands of one width complete on every register with storage -/

theorem read16_isOk (b : Bank) (r : Register16) : ∃ w, b.read16 (.reg r) = .ok w := by
  cases r <;> exact ⟨_, rfl⟩

section
variable (s : State)

theorem exec_get8_completes {r : Register8} (h : r ≠ .HLind) :
    ∃ v, exec (.get8 r) s = .next (s.setResponse (.ok (.register (.v8 v)))) := by
  obtain ⟨v, hread⟩ := read8_isOk s.bank r h
  exact ⟨v, exec_get8_of_read8_eq hread⟩

theorem exec_get16_completes (r : Register16) :
    ∃ w, exec (.get16 (.reg r)) s = .next (s.setResponse (.ok (.register (.v16 w)))) := by
  obtain ⟨w, hread⟩ := read16_isOk s.bank r
  exact ⟨w, exec_get16_of_read16_eq hread⟩

theorem exec_set8_completes {r : Register8} (v : Byte) (h : r ≠ .HLind) :
    ∃ b, exec (.set8 r v) s = .next ((s.setBank b).setResponse (.ok .noValue)) := by
  obtain ⟨b, hwrite⟩ := write8_isOk s.bank v r h
  exact ⟨b, exec_set8_of_write8_eq hwrite⟩

theorem exec_set16_completes (r : Register16) (w : Word) :
    ∃ b, exec (.set16 (.reg r) w) s = .next ((s.setBank b).setResponse (.ok .noValue)) := by
  obtain ⟨b, hwrite, -⟩ := write16_spec s.bank w r
  exact ⟨b, exec_set16_of_write16_eq hwrite⟩

end

/-! ## The obligations -/

/-- Settles O26: GET is the read of its selector's width, which completes on every register with storage, and every word
of the format decodes to GET of its selector. -/
theorem getAnswersAtSelectorWidth : Obligations.GetAnswersAtSelectorWidth := by
  unfold Obligations.GetAnswersAtSelectorWidth
  intro s
  exact ⟨exec_get_r8 s, exec_get_r16 s, fun _ hr => exec_get8_completes s hr, exec_get16_completes s,
    endRead_error s _, exec_get_reserved s, fun c wdata wtag =>
      ⟨step_presenting_of_decode_ok s (decode_get_r8_word c wdata wtag),
        step_presenting_of_decode_ok s (decode_get_r16_word c wdata wtag)⟩,
    fun _ => rfl, fun _ => rfl⟩

/-- Settles O27: on a width match SET is the write of that width, which completes on every register with storage; a
mismatch is an error before any register is looked at; a word of the format decodes to SET of its selector unless its
8-bit operand is wide. -/
theorem setWritesOnWidthMatchOnly : Obligations.SetWritesOnWidthMatchOnly := by
  unfold Obligations.SetWritesOnWidthMatchOnly
  intro s
  exact ⟨exec_set_r8_v8 s, exec_set_r16_v16 s, fun _ v hr => exec_set8_completes s v hr, exec_set16_completes s,
    exec_set_r8_v16 s, exec_set_r16_v8 s, fun _ => endWrite_error s _, exec_set_reserved s, fun t c wdata =>
      ⟨step_presenting_of_decode_ok s (decode_set_word_v16 t c wdata),
        fun v => step_presenting_of_decode_ok s (decode_set_word_of_byte t c v),
        fun hwide => step_presenting_of_decode_error s ⟨_, decode_set_word_of_wide t c hwide⟩⟩,
    rfl⟩

end Machine

end Sys2Proof

/-! The proofs of the family 43_flags.md. First what the words of the flag format decode to and what SETF ends in, then
the obligations. -/

namespace Sys2Proof

/-! ## The words of the flag format -/

section
variable (hi c : BitVec 2) (wdata : Word) (wtag : Bool)

theorem decode_getf_word :
    decode (joinCmd 0x4#4 (joinFlagSel 0#2 c)) wdata wtag = .ok (.getf (flagOfCode c)) := by
  simp [decode, opOfCode]

theorem decode_getf_word_of_reserved {hi : BitVec 2} (h : hi ≠ 0#2) :
    decode (joinCmd 0x4#4 (joinFlagSel hi c)) wdata wtag = .error .reservedSelBit := by
  simp [decode, opOfCode, h]

/-- SETF's word checks its reserved bits first, then that its operand is one bit (R69, R70). -/
theorem decode_setf_word :
    decode (joinCmd 0x5#4 (joinFlagSel hi c)) wdata wtag =
      if hi ≠ 0#2 then .error .reservedSelBit
      else if isBitOperand wdata then .ok (.setf (flagOfCode c) (bitOperand wdata))
      else .error .wideOperand := by
  cases h : isBitOperand wdata <;> simp [decode, opOfCode, h]

theorem decode_setf_word_of_bit (b : Bool) :
    decode (joinCmd 0x5#4 (joinFlagSel 0#2 c)) ((BitVec.ofBool b).setWidth 16) wtag =
      .ok (.setf (flagOfCode c) b) := by
  rw [decode_setf_word, if_neg (not_not_intro rfl), if_pos (isBitOperand_ofBool b), bitOperand_ofBool]

theorem decode_setf_word_of_illegal {hi : BitVec 2} {wdata : Word} (h : hi ≠ 0#2 ∨ wdata.extractLsb' 1 15 ≠ 0#15) :
    ∃ e, decode (joinCmd 0x5#4 (joinFlagSel hi c)) wdata wtag = .error e := by
  rw [decode_setf_word, exists_check_eq_error]
  exact h.imp_right fun hwide => ⟨.wideOperand, if_neg (mt (isBitOperand_iff wdata).mp hwide)⟩

end

namespace Machine

/-! ## What SETF ends in -/

theorem exec_setf_of_writeFlag_eq {s : State} {f : Flag} {b : Bool} {F : Byte} (h : writeFlag f b s.bank.F = F) :
    exec (.setf f b) s = .next ((s.setBank (s.bank.setF F)).setResponse (.ok .noValue)) := h ▸ exec_setf s f b

/-! ## The obligations -/

/-- Settles O29: the byte written has the named bit replaced and every other bit kept, each flag's mask is the one of its
bit, and a word of the format decodes to SETF of its code unless a reserved bit is 1 or its operand is above one bit. -/
theorem setfWritesNamedBitOnly : Obligations.SetfWritesNamedBitOnly := by
  unfold Obligations.SetfWritesNamedBitOnly
  intro s
  exact ⟨fun f b => ⟨writeFlag f b s.bank.F, exec_setf s f b, getLsbD_writeFlag f b s.bank.F⟩,
    exec_setf_of_writeFlag_eq rfl, exec_setf_of_writeFlag_eq rfl, exec_setf_of_writeFlag_eq rfl,
    exec_setf_of_writeFlag_eq rfl, exec_setf_of_writeFlag_eq rfl, exec_setf_of_writeFlag_eq rfl,
    exec_setf_of_writeFlag_eq rfl, exec_setf_of_writeFlag_eq rfl,
    fun c b wtag => step_presenting_of_decode_ok s (decode_setf_word_of_bit c wtag b),
    fun _ c _ wtag hillegal => step_presenting_of_decode_error s (decode_setf_word_of_illegal c wtag hillegal), rfl⟩

/-- Settles O28: each flag reads as its bit of F, and a word of the format decodes to GETF of its code unless a reserved
bit is 1. -/
theorem getfAnswersNamedFlag : Obligations.GetfAnswersNamedFlag := by
  unfold Obligations.GetfAnswersNamedFlag
  intro s
  exact ⟨exec_getf s .Z, exec_getf s .N, exec_getf s .H, exec_getf s .C,
    fun c wdata wtag => step_presenting_of_decode_ok s (decode_getf_word c wdata wtag),
    fun _ c wdata wtag hreserved =>
      step_presenting_of_decode_error s ⟨_, decode_getf_word_of_reserved c wdata wtag hreserved⟩, rfl, rfl⟩

end Machine

end Sys2Proof

/-! The proofs of the family 44_diagnostic.md. First what the words of DUMP's format decode to, then the fields of a
snapshot, which responses leave `snap` at 0 and the digits of a field of the text, and the obligations. -/

namespace Sys2Proof

/-! ## The words of DUMP's format -/

section
variable (wdata : Word) (wtag : Bool)

theorem decode_dump_word : decode 0x80#8 wdata wtag = .ok .dump := rfl

theorem decode_dump_word_of_reserved {sel : BitVec 4} (h : sel ≠ 0x0#4) :
    decode (joinCmd 0x8#4 sel) wdata wtag = .error .reservedSelBit := by
  simp [decode, opOfCode, h]

end

namespace Machine

/-! ## The fields of a snapshot -/

section
variable (b : Bank)

/-- A field of the snapshot is a value when each of its bits is that value's bit. -/
theorem extractLsb'_snapshot_eq {lo n : Nat} {x : BitVec n}
    (h : ∀ i < n, b.snapshot.getLsbD (lo + i) = x.getLsbD i) : b.snapshot.extractLsb' lo n = x :=
  BitVec.eq_of_getLsbD_eq fun i hi => by simp [hi, h i hi]

@[simp] theorem snapshot_HL : b.snapshot.extractLsb' 0 16 = b.HL :=
  extractLsb'_snapshot_eq b fun i hi => by
    rw [Nat.zero_add, getLsbD_snapshot, if_pos hi]

@[simp] theorem snapshot_DE : b.snapshot.extractLsb' 16 16 = b.DE :=
  extractLsb'_snapshot_eq b fun i hi => by
    simp (disch := omega) only [getLsbD_snapshot, if_pos, if_neg, Nat.add_sub_cancel_left]

@[simp] theorem snapshot_BC : b.snapshot.extractLsb' 32 16 = b.BC :=
  extractLsb'_snapshot_eq b fun i hi => by
    simp (disch := omega) only [getLsbD_snapshot, if_pos, if_neg, Nat.add_sub_cancel_left]

@[simp] theorem snapshot_A : b.snapshot.extractLsb' 48 8 = b.A :=
  extractLsb'_snapshot_eq b fun i hi => by
    simp (disch := omega) only [getLsbD_snapshot, if_pos, if_neg, Nat.add_sub_cancel_left]

@[simp] theorem snapshot_F : b.snapshot.extractLsb' 56 8 = b.F :=
  extractLsb'_snapshot_eq b fun i hi => by
    simp (disch := omega) only [getLsbD_snapshot, if_pos, if_neg, Nat.add_sub_cancel_left]

@[simp] theorem snapshot_PC : b.snapshot.extractLsb' 64 16 = b.PC :=
  extractLsb'_snapshot_eq b fun i hi => by
    simp (disch := omega) only [getLsbD_snapshot, if_neg, Nat.add_sub_cancel_left]

end

/-! ## The commands that leave `snap` at 0 -/

/-- A register value on the wires, of either width, leaves `snap` at 0 (R73). -/
theorem wires_register_snap (v : RegisterValue) : (Response.ok (.register v)).wires.snap = 0#80 := by
  cases v <;> rfl

section
variable {s t : State}

theorem endRead_snap {x : Except ErrorKind RegisterValue} (h : endRead x s = .next t) :
    t.response.wires.snap = 0#80 := by
  cases x with
  | ok v =>
    cases h
    exact wires_register_snap v
  | error e =>
    cases h
    rfl

theorem endWrite_snap {x : Except ErrorKind Bank} (h : endWrite x s = .next t) :
    t.response.wires.snap = 0#80 := by
  cases x <;> cases h <;> rfl

/-- A command other than DUMP ends as a read or a write of a register, with a flag or with no result, and none of
these drives `snap` (R73). -/
theorem exec_snap_of_ne_dump {i : Instr} (hi : i ≠ .dump) (h : exec i s = .next t) :
    t.response.wires.snap = 0#80 := by
  cases i with
  | get8 r => exact endRead_snap h
  | set8 r v => exact endWrite_snap h
  | get16 r => exact endRead_snap h
  | set16 r v => exact endWrite_snap h
  | getf f =>
    cases h
    rfl
  | setf f b =>
    cases h
    rfl
  | get sel => exact endRead_snap h
  | set sel val => exact endWrite_snap h
  | dump => exact absurd rfl hi

end

/-! ## The digits of a field of the text -/

@[simp] theorem length_binary (n : Nat) (v : BitVec n) : (binary n v).length = n := by
  induction n with
  | zero => rfl
  | succ n ih => rw [binary_succ, List.length_cons, ih]

/-- The character at position `i` is the digit of the bit that stands `i` below the most significant one. -/
theorem getElem?_binary {n i : Nat} (v : BitVec n) (hi : i < n) :
    (binary n v)[i]? = some (if v.getLsbD (n - 1 - i) then '1' else '0') := by
  induction n generalizing i with
  | zero => exact absurd hi (Nat.not_lt_zero i)
  | succ n ih =>
    rw [binary_succ]
    cases i with
    | zero => rfl
    | succ i =>
      have hbit : (v.setWidth n).getLsbD (n - 1 - i) = v.getLsbD (n - 1 - i) := by
        rw [BitVec.getLsbD_setWidth, decide_eq_true (by omega : n - 1 - i < n), Bool.true_and]
      rw [List.getElem?_cons_succ, ih _ (by omega), hbit, show n + 1 - 1 - (i + 1) = n - 1 - i by omega]

/-- Six fields of 80 digits together, and 27 characters of labels and separators. -/
theorem length_renderChars (b : Bank) : b.renderChars.length = 107 := by simp [Bank.renderChars]

/-! ## The obligations -/

/-- Settles O30: the snapshot holds each field in its place, every other command ends without one, and of the words of
the format the decoder accepts 0x80 alone. -/
theorem dumpAnswersSnapshotOfSixFields : Obligations.DumpAnswersSnapshotOfSixFields := by
  unfold Obligations.DumpAnswersSnapshotOfSixFields
  intro s
  exact ⟨⟨s.bank.snapshot, exec_dump s, snapshot_PC _, snapshot_F _, snapshot_A _, snapshot_BC _, snapshot_DE _,
      snapshot_HL _, rfl⟩,
    fun _ _ => exec_snap_of_ne_dump,
    fun wdata wtag => step_presenting_of_decode_ok s (decode_dump_word wdata wtag),
    fun _ wdata wtag hreserved =>
      step_presenting_of_decode_error s ⟨_, decode_dump_word_of_reserved wdata wtag hreserved⟩⟩

/-- Settles O31: the model spells the labels character by character, and the digits of a field run from its most
significant bit down. -/
theorem dumpTextHasFixedFormat : Obligations.DumpTextHasFixedFormat := by
  unfold Obligations.DumpTextHasFixedFormat
  exact ⟨fun b => ⟨rfl, length_renderChars b⟩, fun n v => ⟨length_binary n v, fun _ => getElem?_binary v⟩⟩

end Machine

end Sys2Proof

/-! The proofs of the family 60_exceptions.md. First the error in which each command and each command word ends, whatever
the state; then which words end in UnsupportedRegister and which in WidthMismatch, and the obligations. -/

namespace Sys2Proof.Machine

/-! ## The error of a command -/

/-- The error of every access to an 8-bit identifier: HLind names no storage (R201). -/
def register8Error : Register8 → Option ErrorKind
  | .HLind => some .unsupportedRegister
  | _ => none

/-- The error of every access to a 16-bit selector: a reserved code names no storage (R201). -/
def register16Error : PortRegister16 → Option ErrorKind
  | .reg _ => none
  | .reserved _ => some .unsupportedRegister

/-- The error of a command that the decoder accepts. A width mismatch comes before a register without storage (R204). -/
def instrError : Instr → Option ErrorKind
  | .get8 r | .set8 r _ | .get (.r8 r) | .set (.r8 r) (.v8 _) => register8Error r
  | .get16 r | .set16 r _ | .get (.r16 r) | .set (.r16 r) (.v16 _) => register16Error r
  | .set (.r8 _) (.v16 _) | .set (.r16 _) (.v8 _) => some .widthMismatch
  | .getf _ | .setf _ _ | .dump => none

/-- The error of what the decoder answers: an illegal encoding comes before every other error (R204). -/
def decodedError : Except DecodeError Instr → Option ErrorKind
  | .error _ => some .illegalCommand
  | .ok i => instrError i

/-- The answer is the end of a command on `s`: the named error with no field changed, or OK where none is named. -/
def EndsIn (s : State) (a : Answer) : Option ErrorKind → Prop
  | some e => a = .next (s.setResponse (.error e))
  | none => ∃ b r, a = .next ((s.setBank b).setResponse (.ok r))

section
variable (s : State)

theorem exec_get8_endsIn (r : Register8) : EndsIn s (exec (.get8 r) s) (register8Error r) := by
  cases r with
  | HLind => exact endRead_error s _
  | B | C | D | E | H | L | A => exact ⟨s.bank, _, endRead_ok s _⟩

theorem exec_set8_endsIn (r : Register8) (v : Byte) : EndsIn s (exec (.set8 r v) s) (register8Error r) := by
  cases r with
  | HLind => exact endWrite_error s _
  | B | C | D | E | H | L | A => exact ⟨_, _, endWrite_ok s _⟩

theorem exec_get16_endsIn (r : PortRegister16) : EndsIn s (exec (.get16 r) s) (register16Error r) := by
  cases r with
  | reg r =>
    obtain ⟨w, h⟩ := exec_get16_completes s r
    exact ⟨s.bank, _, h⟩
  | reserved c => exact exec_get16_reserved s c

theorem exec_set16_endsIn (r : PortRegister16) (w : Word) : EndsIn s (exec (.set16 r w) s) (register16Error r) := by
  cases r with
  | reg r =>
    obtain ⟨b, h⟩ := exec_set16_completes s r w
    exact ⟨b, _, h⟩
  | reserved c => exact exec_set16_reserved s c w

/-- A command ends in its error, whatever the state. -/
theorem exec_endsIn (i : Instr) : EndsIn s (exec i s) (instrError i) := by
  cases i with
  | get8 r => exact exec_get8_endsIn s r
  | set8 r v => exact exec_set8_endsIn s r v
  | get16 r => exact exec_get16_endsIn s r
  | set16 r w => exact exec_set16_endsIn s r w
  | getf f => exact ⟨s.bank, _, exec_getf s f⟩
  | setf f b => exact ⟨_, _, exec_setf s f b⟩
  | get sel =>
    cases sel with
    | r8 r => exact exec_get8_endsIn s r
    | r16 r => exact exec_get16_endsIn s r
  | set sel val =>
    cases sel with
    | r8 r =>
      cases val with
      | v8 v => exact exec_set8_endsIn s r v
      | v16 w => exact exec_set_r8_v16 s r w
    | r16 r =>
      cases val with
      | v8 v => exact exec_set_r16_v8 s r v
      | v16 w => exact exec_set16_endsIn s r w
  | dump => exact ⟨s.bank, _, exec_dump s⟩

/-- A presented command word ends in its error, whatever the state. -/
theorem step_presenting_endsIn (c : CommandWord) : EndsIn s (step (s.presenting c)) (decodedError c.decode) := by
  cases h : c.decode with
  | error e => exact step_presenting_of_decode_error s ⟨e, h⟩
  | ok i =>
    rw [step_presenting_of_decode_ok s h]
    exact exec_endsIn s i

/-- The step on a presented command word answers a next state, whose response is exactly the word's error. -/
theorem step_presenting_response_error_iff (c : CommandWord) :
    ∃ t, step (s.presenting c) = .next t ∧ ∀ e, t.response = .error e ↔ decodedError c.decode = some e := by
  have h := step_presenting_endsIn s c
  cases herr : decodedError c.decode with
  | none =>
    rw [herr] at h
    obtain ⟨b, r, h⟩ := h
    exact ⟨_, h, by simp⟩
  | some e =>
    rw [herr] at h
    exact ⟨_, h, by simp⟩

end

/-! ## The error of a command word -/

@[simp] theorem decodedError_ok (i : Instr) : decodedError (.ok i) = instrError i := rfl

/-- An error that is not the decoder's own comes after the decoder's checks (R204). -/
theorem decodedError_check_eq_some_iff {p : Prop} [Decidable p] {e : ErrorKind} (he : e ≠ .illegalCommand)
    (ground : DecodeError) (rest : Except DecodeError Instr) :
    decodedError (if p then .error ground else rest) = some e ↔ ¬ p ∧ decodedError rest = some e := by
  split <;> simp [decodedError, he.symm, *]

theorem register8Error_eq_some_iff (r : Register8) (e : ErrorKind) :
    register8Error r = some e ↔ r = .HLind ∧ e = .unsupportedRegister := by
  cases r <;> simp [register8Error, eq_comm]

/-- The error of a 16-bit access, in terms of the selector's code. -/
theorem register16Error_r16OfCode_eq_some_iff (c : BitVec 3) (e : ErrorKind) :
    register16Error (r16OfCode c) = some e ↔ 5#3 ≤ c ∧ e = .unsupportedRegister := by
  cases e <;> revert c <;> decide

/-- GET's error is that of a read of its selector's width. -/
theorem instrError_get_selectorOfCode (t : Bool) (c : BitVec 3) (e : ErrorKind) :
    instrError (.get (selectorOfCode t c)) = some e ↔
      (t = false ∧ register8Error (r8OfCode c) = some e) ∨ (t = true ∧ register16Error (r16OfCode c) = some e) := by
  cases t <;> simp [selectorOfCode, instrError]

/-- SET's error is that of a write of its selector's width, unless its tag has the other width. -/
theorem instrError_set_selectorOfCode (t wtag : Bool) (c : BitVec 3) (wdata : Word) (e : ErrorKind) :
    instrError (.set (selectorOfCode t c) (valueOperand wdata wtag)) = some e ↔
      (t = false ∧ wtag = false ∧ register8Error (r8OfCode c) = some e) ∨
      (t = true ∧ wtag = true ∧ register16Error (r16OfCode c) = some e) ∨ (t ≠ wtag ∧ e = .widthMismatch) := by
  cases t <;> cases wtag <;> simp [selectorOfCode, valueOperand, instrError, eq_comm]

/-- The word has the given `op`, and an 8-bit selector that is HLind. -/
def NamesHLind (op : BitVec 4) (cmd : Byte) : Prop :=
  opField cmd = op ∧ selBit3 cmd = false ∧ r8OfCode (registerCode cmd) = .HLind

/-- The word has the given `op` and the given bit 3, and a reserved 16-bit code. -/
def NamesReserved16 (op : BitVec 4) (t : Bool) (cmd : Byte) : Prop :=
  opField cmd = op ∧ selBit3 cmd = t ∧ 5#3 ≤ registerCode cmd

theorem namesHLind_iff (op : BitVec 4) (cmd : Byte) : NamesHLind op cmd ↔ cmd = joinCmd op (joinSel 0#1 6#3) := by
  constructor
  · rintro ⟨rfl, ht, hr⟩
    calc cmd = joinCmd (opField cmd) (joinSel (BitVec.ofBool (selBit3 cmd)) (registerCode cmd)) :=
          (joinCmd_registerFields cmd).symm
      _ = joinCmd (opField cmd) (joinSel 0#1 6#3) := by rw [ht, ← r8Code_r8OfCode (registerCode cmd), hr]; rfl
  · rintro rfl
    simp [NamesHLind, r8OfCode]

/-- A command word as a number. -/
theorem toNat_joinCmd_joinSel : ∀ (op : BitVec 4) (t : Bool) (c : BitVec 3),
    (joinCmd op (joinSel (BitVec.ofBool t) c)).toNat = 16 * op.toNat + 8 * t.toNat + c.toNat := by decide

/-- The reserved codes are the last of their format, so a word that names one lies between the words of 5 and of 7. -/
theorem namesReserved16_iff (op : BitVec 4) (t : Bool) (cmd : Byte) : NamesReserved16 op t cmd ↔
    joinCmd op (joinSel (BitVec.ofBool t) 5#3) ≤ cmd ∧ cmd ≤ joinCmd op (joinSel (BitVec.ofBool t) 7#3) := by
  have hcmd := toNat_joinCmd_joinSel (opField cmd) (selBit3 cmd) (registerCode cmd)
  rw [joinCmd_registerFields] at hcmd
  have ht := t.toNat_le
  have hbit := (selBit3 cmd).toNat_le
  have hinj : selBit3 cmd = t ↔ (selBit3 cmd).toNat = t.toNat := by cases selBit3 cmd <;> cases t <;> decide
  simp only [NamesReserved16, hinj, BitVec.le_def, ← BitVec.toNat_inj, toNat_joinCmd_joinSel, hcmd,
    BitVec.toNat_ofNat]
  omega

/-- The words of UnsupportedRegister, by R201: HLind or a reserved 16-bit code in a command that R204's earlier errors
leave alone. -/
def UnsupportedEncoding (cmd : Byte) (wdata : Word) (wtag : Bool) : Prop :=
  NamesHLind 0x0#4 cmd ∨ (NamesHLind 0x1#4 cmd ∧ isByteOperand wdata = true) ∨ NamesHLind 0x6#4 cmd ∨
  (NamesHLind 0x7#4 cmd ∧ wtag = false ∧ isByteOperand wdata = true) ∨
  NamesReserved16 0x2#4 false cmd ∨ NamesReserved16 0x3#4 false cmd ∨ NamesReserved16 0x6#4 true cmd ∨
  (NamesReserved16 0x7#4 true cmd ∧ wtag = true)

/-- The words of WidthMismatch, by R202: SET where the width bit of the selector and the tag differ, and the operand is
legal for the tag. -/
def MismatchEncoding (cmd : Byte) (wdata : Word) (wtag : Bool) : Prop :=
  opField cmd = 0x7#4 ∧ ((selBit3 cmd = false ∧ wtag = true) ∨
    (selBit3 cmd = true ∧ wtag = false ∧ isByteOperand wdata = true))

/-- The errors that are not the decoder's own, each on exactly its words. -/
theorem decodedError_decode_eq_some_iff (cmd : Byte) (wdata : Word) (wtag : Bool) {e : ErrorKind}
    (he : e ≠ .illegalCommand) : decodedError (decode cmd wdata wtag) = some e ↔
      (UnsupportedEncoding cmd wdata wtag ∧ e = .unsupportedRegister) ∨
      (MismatchEncoding cmd wdata wtag ∧ e = .widthMismatch) := by
  unfold UnsupportedEncoding MismatchEncoding NamesHLind NamesReserved16
  cases hop : opOfCode (opField cmd) with
  | none =>
    have hreserved := reserved_of_opOfCode_eq_none hop
    have hne {op : BitVec 4} (hlt : op < 0x9#4) : opField cmd ≠ op := by bv_omega
    simp [decode, hop, hne, decodedError, he.symm]
  | some o =>
    rw [decode, hop, eq_code_of_opOfCode_eq_some hop]
    -- After the checks of its decoding a command has its own error, and its code excludes the words of other formats.
    cases o with
    | get8 | set8 | get16 | set16 | getf | setf | get | dump =>
      simp only [decodedError_check_eq_some_iff he, decodedError_ok, instrError_get_selectorOfCode]
      simp [Op.code, instrError, register8Error_eq_some_iff, register16Error_r16OfCode_eq_some_iff, and_assoc,
        and_left_comm, or_and_right]
    | set =>
      simp only [decodedError_check_eq_some_iff he, decodedError_ok, instrError_set_selectorOfCode,
        register8Error_eq_some_iff, register16Error_r16OfCode_eq_some_iff]
      cases selBit3 cmd <;> cases wtag <;> simp [Op.code, and_assoc, and_left_comm]

/-- The three words of SET that name a reserved 16-bit code. -/
theorem eq_set_reserved16_word : ∀ c ∈ [0x7D#8, 0x7E#8, 0x7F#8],
    c = joinCmd 0x7#4 (joinSel (BitVec.ofBool true) (registerCode c)) := by decide

/-- OK alone drives code 0 (R72). -/
theorem ErrorKind.code_ne_zero (e : ErrorKind) : e.code ≠ 0#2 := by cases e <;> decide

/-! ## The obligations -/

/-- Settles O33: UnsupportedRegister is the error of exactly the words that name HLind or a reserved code and meet no
earlier error. -/
theorem unsupportedRegisterExactlyWhere : Obligations.UnsupportedRegisterExactlyWhere := by
  unfold Obligations.UnsupportedRegisterExactlyWhere
  intro s cmd wdata wtag
  obtain ⟨t, ht, hresponse⟩ := step_presenting_response_error_iff s ⟨cmd, wdata, wtag⟩
  have herror := decodedError_decode_eq_some_iff cmd wdata wtag (e := .unsupportedRegister) nofun
  refine ⟨t, ht, (hresponse _).trans (herror.trans ?_)⟩
  simp only [UnsupportedEncoding, namesHLind_iff, namesReserved16_iff, isByteOperand_iff, and_assoc, reduceCtorEq,
    and_true, and_false, or_false]
  exact Iff.rfl

/-- Settles O34: WidthMismatch is the error of exactly the SET words whose width bit and tag differ and whose operand is
legal. -/
theorem widthMismatchExactlyWhere : Obligations.WidthMismatchExactlyWhere := by
  unfold Obligations.WidthMismatchExactlyWhere
  intro s cmd wdata wtag
  obtain ⟨t, ht, hresponse⟩ := step_presenting_response_error_iff s ⟨cmd, wdata, wtag⟩
  have herror := decodedError_decode_eq_some_iff cmd wdata wtag (e := .widthMismatch) nofun
  refine ⟨t, ht, (hresponse _).trans (herror.trans ?_)⟩
  simp [MismatchEncoding, isByteOperand_iff, opField, selBit3]

/-- Settles O35: a word's error does not depend on the state, so the word ends in it again on the state after it, which is the
old one but for the response. -/
theorem errorsChangeNothingAndRepeat : Obligations.ErrorsChangeNothingAndRepeat := by
  unfold Obligations.ErrorsChangeNothingAndRepeat
  intro s c
  have hends := step_presenting_endsIn (c := c)
  cases herror : decodedError c.decode with
  | none =>
    rw [herror] at hends
    obtain ⟨b, r, hstep⟩ := hends s
    exact ⟨_, hstep, by simp⟩
  | some e =>
    rw [herror] at hends
    refine ⟨_, hends s, fun e' he' => ?_⟩
    obtain rfl : e = e' := Response.error.inj he'
    exact ⟨rfl, rfl, e.code_ne_zero, hends (s.setResponse (.error e))⟩

/-- Settles O32: the decoder rejects a wide operand before any command runs, and SET compares the widths before it looks
at the register. -/
theorem errorPriority : Obligations.ErrorPriority := by
  unfold Obligations.ErrorPriority
  intro s sel wdata
  refine ⟨fun hwide => ?_, ?_, fun c hc hbyte => ?_, fun hwide wtag => ?_⟩
  · exact step_presenting_of_decode_error s ((decode_error_iff _ _ _).mpr (by simp [IllegalEncoding, hwide]))
  · exact (step_presenting_of_decode_ok s (decode_set_word_v16 false 6#3 wdata)).trans (exec_set_r8_v16 s _ wdata)
  · rw [eq_set_reserved16_word c hc]
    have hdecode := decode_set_word_v8 true (registerCode c) wdata
    rw [if_pos ((isByteOperand_iff wdata).mpr hbyte)] at hdecode
    exact (step_presenting_of_decode_ok s hdecode).trans (exec_set_r16_v8 s _ _)
  · exact step_presenting_of_decode_error s ⟨_, decode_set8_word_of_wide 6#3 wtag hwide⟩

end Sys2Proof.Machine

/-! The proofs of the family 70_reset_and_hazards.md. First what each of the four cases of R246 performs, one equation per
case, then the obligations: a step performs the input at the front of the stream. -/

namespace Sys2Proof.Machine

/-! ## The four cases of an input -/

section
variable {p : PortInput} (s : State)

theorem performInput_of_rst (hrst : p.rst = true) :
    performInput p s = .next ((s.setBank Bank.reset).setResponse (.ok .noValue)) := by
  simp [performInput, hrst, resetStep]

theorem performInput_of_idle (hrst : p.rst = false) (hvalid : p.cmdValid = false) :
    performInput p s = .next (s.setResponse (.ok .noValue)) := by
  simp [performInput, hrst, hvalid, idleStep]

theorem performInput_of_decode_error (hrst : p.rst = false) (hvalid : p.cmdValid = true) {e : DecodeError}
    (hdecode : decode p.cmd p.wdata p.wtag = .error e) :
    performInput p s = .next (s.setResponse (.error .illegalCommand)) := by
  simp [performInput, hrst, hvalid, hdecode, illegalStep]

theorem performInput_of_decode_ok (hrst : p.rst = false) (hvalid : p.cmdValid = true) {i : Instr}
    (hdecode : decode p.cmd p.wdata p.wtag = .ok i) : performInput p s = exec i s := by
  simp [performInput, hrst, hvalid, hdecode]

end

/-- A step performs the input at the front of the stream on the state without it (R50). -/
theorem step_setPending_cons (s : State) (p : PortInput) :
    step (s.setPending (p :: s.pending)) = performInput p s := rfl

/-- A step that gives no value drives zeros on every wire (R73). -/
theorem wires_ok_noValue :
    (Response.ok .noValue).wires = { err := 0#2, rdata := 0x0000#16, rtag := false, snap := 0#80 } := rfl

/-! ## The obligations -/

/-- Settles O2: an input with `rst = 1` is a reset step whatever its other signals are, so its command is not decoded. -/
theorem resetStepZeroesBankAndDiscardsCommand : Obligations.ResetStepZeroesBankAndDiscardsCommand := by
  unfold Obligations.ResetStepZeroesBankAndDiscardsCommand
  intro b resp rest cmdValid cmd wdata wtag
  have hstep := step_setPending_cons ⟨b, rest, resp⟩ ⟨true, cmdValid, cmd, wdata, wtag⟩
  exact ⟨hstep.trans (performInput_of_rst _ rfl), wires_ok_noValue⟩

/-- Settles O3: an input with `rst = 0` and `cmd_valid = 0` is an idle step whatever its other signals are. -/
theorem idleStepChangesNothing : Obligations.IdleStepChangesNothing := by
  unfold Obligations.IdleStepChangesNothing
  intro b resp rest cmd wdata wtag
  have hstep := step_setPending_cons ⟨b, rest, resp⟩ ⟨false, false, cmd, wdata, wtag⟩
  exact ⟨hstep.trans (performInput_of_idle _ rfl rfl), wires_ok_noValue⟩

/-- Settles O5: the step performs `p`, and `rst`, `cmd_valid` and the decoder choose among the four cases. -/
theorem stepRunsDecodedCommand : Obligations.StepRunsDecodedCommand := by
  unfold Obligations.StepRunsDecodedCommand
  intro s p
  have hstep := step_setPending_cons s p
  refine ⟨fun hrst => ?_, fun hrst hvalid => ?_, fun hrst hvalid e hdecode => ?_, fun hrst hvalid i hdecode => ?_⟩
  · exact hstep.trans (performInput_of_rst s hrst)
  · exact hstep.trans (performInput_of_idle s hrst hvalid)
  · exact hstep.trans (performInput_of_decode_error s hrst hvalid hdecode)
  · exact hstep.trans (performInput_of_decode_ok s hrst hvalid hdecode)

end Sys2Proof.Machine

/-! The proofs of the family 'other', encodings. First the round trip between a well-formed command and its word, then
the map of the words, the opcode table and the operands that no read command looks at, and the obligations. -/

namespace Sys2Proof

/-! ## The words of the generic format, and its selectors -/

theorem decode_get_word (t : Bool) (c : BitVec 3) (wdata : Word) (wtag : Bool) :
    decode (joinCmd 0x6#4 (joinSel (BitVec.ofBool t) c)) wdata wtag = .ok (.get (selectorOfCode t c)) := by
  cases t with
  | false => exact decode_get_r8_word c wdata wtag
  | true => exact decode_get_r16_word c wdata wtag

/-- The `sel` field of a well-formed selector is a width bit and a code that name the selector. -/
theorem exists_selectorBits_eq {sel : RegisterSelector} (h : sel.wellFormed = true) :
    ∃ t c, selectorBits sel = joinSel (BitVec.ofBool t) c ∧ selectorOfCode t c = sel := by
  cases sel with
  | r8 r => exact ⟨false, r8Code r, rfl, congrArg RegisterSelector.r8 (r8OfCode_r8Code r)⟩
  | r16 r => exact ⟨true, r16Code r, rfl, congrArg RegisterSelector.r16 (r16OfCode_r16Code r h)⟩

theorem selectorOfCode_wellFormed (t : Bool) (c : BitVec 3) : (selectorOfCode t c).wellFormed = true := by
  cases t with
  | false => rfl
  | true => exact r16OfCode_wellFormed c

theorem selectorBits_selectorOfCode (t : Bool) (c : BitVec 3) :
    selectorBits (selectorOfCode t c) = joinSel (BitVec.ofBool t) c := by
  cases t with
  | false => exact congrArg (joinSel 0#1) (r8Code_r8OfCode c)
  | true => exact congrArg (joinSel 1#1) (r16Code_r16OfCode c)

/-! ## From a command to its word and back -/

/-- The decoder reads every well-formed command from its encoding. -/
theorem decode_encode {i : Instr} (h : i.wellFormed = true) : (encode i).decode = .ok i := by
  cases i with
  | get8 r => exact (decode_get8_word (r8Code r) _ _).trans (by rw [r8OfCode_r8Code])
  | set8 r v => exact (decode_set8_word_of_byte (r8Code r) _ v).trans (by rw [r8OfCode_r8Code])
  | get16 r => exact (decode_get16_word (r16Code r) _ _).trans (by rw [r16OfCode_r16Code r h])
  | set16 r w => exact (decode_set16_word (r16Code r) w _).trans (by rw [r16OfCode_r16Code r h])
  | getf f => exact (decode_getf_word (flagCode f) _ _).trans (by rw [flagOfCode_flagCode])
  | setf f b => exact (decode_setf_word_of_bit (flagCode f) _ b).trans (by rw [flagOfCode_flagCode])
  | get sel =>
    obtain ⟨t, c, hbits, rfl⟩ := exists_selectorBits_eq h
    rw [CommandWord.decode, encode, selBits, hbits]
    exact decode_get_word t c _ _
  | set sel val =>
    obtain ⟨t, c, hbits, rfl⟩ := exists_selectorBits_eq h
    rw [CommandWord.decode, encode, selBits, hbits]
    cases val with
    | v8 v => exact decode_set_word_of_byte t c v
    | v16 w => exact decode_set_word_v16 t c w
  | dump => exact decode_dump_word _ _

/-- A check of the decoder accepts a command when its ground does not hold and what comes after it accepts. -/
theorem check_eq_ok_iff {p : Prop} [Decidable p] {ground : DecodeError} {rest : Except DecodeError Instr} {i : Instr} :
    (if p then .error ground else rest) = .ok i ↔ ¬ p ∧ rest = .ok i := by
  split <;> simp [*]

section
variable {cmd : Byte} {op : BitVec 4} (hop : opField cmd = op)
include hop

/-- A word of format F8 is given back by its `op` and the code of the register it names. -/
theorem r8Word_eq (hbit : ¬ selBit3 cmd = true) :
    joinCmd op (joinSel 0#1 (r8Code (r8OfCode (registerCode cmd)))) = cmd := by
  have hword := joinCmd_registerFields cmd
  rwa [hop, Bool.eq_false_of_not_eq_true hbit, ← r8Code_r8OfCode (registerCode cmd)] at hword

/-- A word of format F16 is given back by its `op` and the code of the selector it names. -/
theorem r16Word_eq (hbit : ¬ selBit3 cmd = true) :
    joinCmd op (joinSel 0#1 (r16Code (r16OfCode (registerCode cmd)))) = cmd := by
  have hword := joinCmd_registerFields cmd
  rwa [hop, Bool.eq_false_of_not_eq_true hbit, ← r16Code_r16OfCode (registerCode cmd)] at hword

/-- A word of format FF is given back by its `op` and the code of the flag it names. -/
theorem flagWord_eq (hreserved : ¬ flagSelReserved cmd = true) :
    joinCmd op (joinFlagSel 0#2 (flagCode (flagOfCode (flagField cmd)))) = cmd := by
  rw [flagCode_flagOfCode, ← hop]
  exact joinCmd_flagFields cmd (Bool.eq_false_of_not_eq_true hreserved)

/-- A word of format FG is given back by its `op` and the `sel` field of the selector it names. -/
theorem selectorWord_eq :
    joinCmd op (selectorBits (selectorOfCode (selBit3 cmd) (registerCode cmd))) = cmd := by
  rw [selectorBits_selectorOfCode, ← hop]
  exact joinCmd_registerFields cmd

end

/-- SET's value operand gives back the `wdata` it was taken from. -/
theorem operandWord_set {wdata : Word} {wtag : Bool} (sel : RegisterSelector)
    (h : ¬ (!wtag && !isByteOperand wdata) = true) :
    operandWord (.set sel (valueOperand wdata wtag)) = wdata := by
  cases wtag with
  | false => exact setWidth_byteOperand wdata (by simpa using h)
  | true => rfl

theorem operandTag_set (sel : RegisterSelector) (wdata : Word) (wtag : Bool) :
    operandTag (.set sel (valueOperand wdata wtag)) = wtag := by
  cases wtag <;> rfl

/-- What encoding an accepted command gives back: the command word, and the operands that its format reads (R70,
R71). -/
def EncodesBack (i : Instr) (cmd : Byte) (wdata : Word) (wtag : Bool) : Prop :=
  i.wellFormed = true ∧ (encode i).cmd = cmd ∧
  (opOf i ∈ [Op.set8, Op.set16, Op.setf, Op.set] → (encode i).wdata = wdata) ∧
  (opOf i = .set → (encode i).wtag = wtag)

theorem encodesBack_of_decode_eq_ok {cmd : Byte} {wdata : Word} {wtag : Bool} {i : Instr}
    (h : decode cmd wdata wtag = .ok i) : EncodesBack i cmd wdata wtag := by
  cases hop : opOfCode (opField cmd) with
  | none => simp [decode, hop] at h
  | some o =>
    rw [decode, hop] at h
    have hcode := eq_code_of_opOfCode_eq_some hop
    cases o with
    | get8 =>
      obtain ⟨hbit, ⟨⟩⟩ := check_eq_ok_iff.mp h
      exact ⟨rfl, r8Word_eq hcode hbit, by simp [opOf], nofun⟩
    | set8 =>
      obtain ⟨hbit, h⟩ := check_eq_ok_iff.mp h
      obtain ⟨hbyte, ⟨⟩⟩ := check_eq_ok_iff.mp h
      exact ⟨rfl, r8Word_eq hcode hbit, fun _ => setWidth_byteOperand wdata (by simpa using hbyte), nofun⟩
    | get16 =>
      obtain ⟨hbit, ⟨⟩⟩ := check_eq_ok_iff.mp h
      exact ⟨r16OfCode_wellFormed _, r16Word_eq hcode hbit, by simp [opOf], nofun⟩
    | set16 =>
      obtain ⟨hbit, ⟨⟩⟩ := check_eq_ok_iff.mp h
      exact ⟨r16OfCode_wellFormed _, r16Word_eq hcode hbit, fun _ => rfl, nofun⟩
    | getf =>
      obtain ⟨hreserved, ⟨⟩⟩ := check_eq_ok_iff.mp h
      exact ⟨rfl, flagWord_eq hcode hreserved, by simp [opOf], nofun⟩
    | setf =>
      obtain ⟨hreserved, h⟩ := check_eq_ok_iff.mp h
      obtain ⟨hbit, ⟨⟩⟩ := check_eq_ok_iff.mp h
      exact ⟨rfl, flagWord_eq hcode hreserved, fun _ => setWidth_bitOperand wdata (by simpa using hbit), nofun⟩
    | get =>
      obtain ⟨⟩ := h
      exact ⟨selectorOfCode_wellFormed _ _, selectorWord_eq hcode, by simp [opOf], nofun⟩
    | set =>
      obtain ⟨hbyte, ⟨⟩⟩ := check_eq_ok_iff.mp h
      exact ⟨selectorOfCode_wellFormed _ _, selectorWord_eq hcode, fun _ => operandWord_set _ hbyte,
        fun _ => operandTag_set _ _ _⟩
    | dump =>
      obtain ⟨hsel, ⟨⟩⟩ := check_eq_ok_iff.mp h
      have hword := joinCmd_fields cmd
      rw [hcode, show selField cmd = 0x0#4 by simpa using hsel] at hword
      exact ⟨rfl, hword, by simp [opOf], nofun⟩

/-! ## The map of the command words -/

/-- A register code adds to the first word of its row. -/
theorem joinCmd_joinSel_eq_add : ∀ (op : BitVec 4) (t : BitVec 1) (c : BitVec 3),
    joinCmd op (joinSel t 0#3) + c.setWidth 8 = joinCmd op (joinSel t c) := by decide

/-- A flag code adds to the first word of its row. -/
theorem joinCmd_joinFlagSel_eq_add : ∀ (op : BitVec 4) (c : BitVec 2),
    joinCmd op (joinFlagSel 0#2 0#2) + c.setWidth 8 = joinCmd op (joinFlagSel 0#2 c) := by decide

theorem decode_add_registerCode (op : BitVec 4) (t : BitVec 1) (c : BitVec 3) (wdata : Word) (wtag : Bool) :
    decode (joinCmd op (joinSel t 0#3) + c.setWidth 8) wdata wtag = decode (joinCmd op (joinSel t c)) wdata wtag := by
  rw [joinCmd_joinSel_eq_add]

theorem decode_add_flagCode (op : BitVec 4) (c : BitVec 2) (wdata : Word) (wtag : Bool) :
    decode (joinCmd op (joinFlagSel 0#2 0#2) + c.setWidth 8) wdata wtag =
      decode (joinCmd op (joinFlagSel 0#2 c)) wdata wtag := by
  rw [joinCmd_joinFlagSel_eq_add]

/-- The words between the rows of the map meet one of the grounds of R69. -/
theorem illegalEncoding_of_between_rows : ∀ cmd : Byte,
    (0x08#8 ≤ cmd ∧ cmd ≤ 0x0F#8) ∨ (0x18#8 ≤ cmd ∧ cmd ≤ 0x1F#8) ∨ (0x28#8 ≤ cmd ∧ cmd ≤ 0x2F#8) ∨
    (0x38#8 ≤ cmd ∧ cmd ≤ 0x3F#8) ∨ (0x44#8 ≤ cmd ∧ cmd ≤ 0x4F#8) ∨ (0x54#8 ≤ cmd ∧ cmd ≤ 0x5F#8) ∨ 0x81#8 ≤ cmd →
      IllegalEncoding cmd 0x0000#16 false := by
  unfold IllegalEncoding
  decide

/-! ## The opcode table -/

/-- With zero operands a word decodes to a command of a row's name exactly when the row covers it. -/
theorem covers_iff_decode : ∀ row ∈ opcodeTable, ∀ cmd : Byte,
    row.covers cmd = true ↔ (decode cmd 0x0000#16 false).map opOf = .ok row.op := by decide

/-- No two rows have one name. -/
theorem opcodeTable_ops_distinct : opcodeTable.Pairwise fun a b => a.op ≠ b.op := by decide

/-- A word decodes to one command, so rows of different names do not both cover it. -/
theorem covers_eq_false_of_op_ne {a b : OpcodeRow} (ha : a ∈ opcodeTable) (hb : b ∈ opcodeTable) (hne : a.op ≠ b.op)
    {cmd : Byte} (h : a.covers cmd = true) : b.covers cmd = false := by
  refine Bool.eq_false_of_not_eq_true fun hcovers => hne ?_
  exact Except.ok.inj (((covers_iff_decode a ha cmd).mp h).symm.trans ((covers_iff_decode b hb cmd).mp hcovers))

/-! ## The commands that read no operand -/

/-- The read commands and DUMP decode the same whatever stands on `wdata` and `wtag` (R71). -/
theorem decode_ignores_operands {op : BitVec 4} (h : op ∈ [0x0#4, 0x2#4, 0x4#4, 0x6#4, 0x8#4]) (sel : BitVec 4)
    (wdata wdata' : Word) (wtag wtag' : Bool) :
    decode (joinCmd op sel) wdata wtag = decode (joinCmd op sel) wdata' wtag' := by
  simp only [List.mem_cons, List.not_mem_nil, or_false] at h
  simp only [decode, opField_joinCmd]
  obtain rfl | rfl | rfl | rfl | rfl := h <;> rfl

/-! ## The obligations -/

/-- Settles O17: each format's word decodes to the selector whose code it holds, and each operand is taken whole. -/
theorem decodeUndoesEncode : Obligations.DecodeUndoesEncode := by
  unfold Obligations.DecodeUndoesEncode
  exact fun _ => decode_encode

/-- Settles O18: the checks that the decoder makes leave no bit of the word, and none of an operand it reads,
undetermined by the command. -/
theorem encodeUndoesDecode : Obligations.EncodeUndoesDecode := by
  unfold Obligations.EncodeUndoesDecode
  exact fun _ _ => encodesBack_of_decode_eq_ok

/-- Settles O16: each write format takes its operand from `wdata` or rejects the word, and no other format reads it. -/
theorem writeOperandsAreNeitherExtendedNorTruncated : Obligations.WriteOperandsAreNeitherExtendedNorTruncated := by
  unfold Obligations.WriteOperandsAreNeitherExtendedNorTruncated
  refine ⟨fun c wdata wtag => ⟨?_, decode_set16_word c wdata wtag⟩, fun c wdata wtag => ?_,
    fun t c wdata => ⟨?_, decode_set_word_v16 t c wdata⟩,
    fun _ sel wdata wdata' wtag wtag' h => decode_ignores_operands h sel wdata wdata' wtag wtag'⟩
  · exact (decode_set8_word c wdata wtag).trans (if_congr (isByteOperand_iff wdata) rfl rfl)
  · exact (decode_setf_word 0#2 c wdata wtag).trans
      ((if_neg (not_not_intro rfl)).trans (if_congr (isBitOperand_iff wdata) rfl rfl))
  · exact (decode_set_word_v8 t c wdata).trans (if_congr (isByteOperand_iff wdata) rfl rfl)

/-- Settles O14: the first word of a row plus a code is the word of that code, and the words between the rows are
illegal. -/
theorem commandMapOfAllWords : Obligations.CommandMapOfAllWords := by
  unfold Obligations.CommandMapOfAllWords
  refine ⟨fun c => ⟨?_, ?_, ?_, ?_, ?_, ?_, ?_, ?_⟩, fun c => ⟨?_, ?_⟩, decode_dump_word _ _,
    fun cmd h => (decode_error_iff cmd _ _).mpr (illegalEncoding_of_between_rows cmd h)⟩
  · exact (decode_add_registerCode 0x0#4 0#1 c _ _).trans (decode_get8_word c _ _)
  · exact (decode_add_registerCode 0x1#4 0#1 c _ _).trans (decode_set8_word_of_byte c _ 0x00#8)
  · exact (decode_add_registerCode 0x2#4 0#1 c _ _).trans (decode_get16_word c _ _)
  · exact (decode_add_registerCode 0x3#4 0#1 c _ _).trans (decode_set16_word c _ _)
  · exact (decode_add_registerCode 0x6#4 0#1 c _ _).trans (decode_get_r8_word c _ _)
  · exact (decode_add_registerCode 0x6#4 1#1 c _ _).trans (decode_get_r16_word c _ _)
  · exact (decode_add_registerCode 0x7#4 0#1 c _ _).trans (decode_set_word_of_byte false c 0x00#8)
  · exact (decode_add_registerCode 0x7#4 1#1 c _ _).trans (decode_set_word_of_byte true c 0x00#8)
  · exact (decode_add_flagCode 0x4#4 c _ _).trans (decode_getf_word c _ _)
  · exact (decode_add_flagCode 0x5#4 c _ _).trans (decode_setf_word_of_bit c _ false)

/-- Settles O13: the rows agree with the decoder over all 256 words, and so they exclude each other. -/
theorem decoderAgreesWithOpcodeTable : Obligations.DecoderAgreesWithOpcodeTable := by
  unfold Obligations.DecoderAgreesWithOpcodeTable
  exact ⟨opcodeTable_ops_distinct.imp_of_mem fun ha hb hne _ => covers_eq_false_of_op_ne ha hb hne, covers_iff_decode⟩

/-- Settles O9: the decoder's table of 8-bit registers, code by code. -/
theorem register8CodesFollowListingOrder : Obligations.Register8CodesFollowListingOrder := by
  unfold Obligations.Register8CodesFollowListingOrder
  exact ⟨rfl, rfl, rfl, rfl, rfl, rfl, rfl, rfl⟩

/-- Settles O12: each word is that of its format with its codes filled in. -/
theorem writtenOutWordsDecode : Obligations.WrittenOutWordsDecode := by
  unfold Obligations.WrittenOutWordsDecode
  exact ⟨decode_get8_word 7#3 _ _, decode_set8_word_of_byte 1#3 _ 0xAB#8, decode_get16_word 4#3 _ _,
    decode_set16_word 0#3 _ _, decode_getf_word 3#2 _ _, decode_setf_word_of_bit 0#2 _ true, decode_get_r8_word 6#3 _ _,
    decode_set_r16_word 4#3 _, decode_dump_word _ _, rfl, decode_dump_word_of_reserved _ _ (sel := 1#4) (by decide)⟩

end Sys2Proof

/-! The proofs of the family 'other', the assembler. First how a line of each shape is read, then the two words of a
selector and of a value and the round trip between a command and its line, and the obligations. -/

namespace Sys2Proof.Machine

/-! ## How a line of each shape is read -/

/-- The comma and the space between operands end a word that keeps the comma. -/
theorem lineWords_append_comma {w : List Char} (rest : List Char) (hw : ' ' ∉ w) :
    lineWords (w ++ comma ++ rest) = (w ++ [',']) :: lineWords rest := by
  have hcomma : w ++ comma ++ rest = w ++ [','] ++ ' ' :: rest := by simp [comma]
  rw [hcomma, lineWords_append _ rest (by simpa using hw)]

/-- What stands before the first space is a word, and the operand before a comma stands after it. -/
theorem append_comma_assoc (m w v : List Char) : m ++ ' ' :: w ++ comma ++ v = m ++ ' ' :: (w ++ comma ++ v) := by
  simp

section
variable {m w v : List Char} (hm : ' ' ∉ m) (hw : ' ' ∉ w) (hv : ' ' ∉ v)
include hm hw

theorem assemble_read : assemble (m ++ ' ' :: w) = assembleRead m w := by
  rw [assemble, lineWords_append m w hm, lineWords_word w hw]

include hv

theorem assemble_write (hget : m ≠ ['g', 'e', 't']) : assemble (m ++ ' ' :: w ++ comma ++ v) = assembleWrite m w v := by
  have hwords : lineWords (m ++ ' ' :: w ++ comma ++ v) = [m, w ++ [','], v] := by
    rw [append_comma_assoc, lineWords_append m _ hm, lineWords_append_comma v hw, lineWords_word v hv]
  rw [assemble, hwords]
  simp [hget]

end

section
variable {kind w tag v : List Char} (hkind : ' ' ∉ kind) (hw : ' ' ∉ w) (htag : ' ' ∉ tag) (hv : ' ' ∉ v)
include hkind hw

theorem assemble_get :
    assemble (['g', 'e', 't'] ++ ' ' :: (kind ++ ' ' :: w)) = (readSelectorText kind w).map .get := by
  rw [assemble, lineWords_append _ _ (by decide), lineWords_append kind w hkind, lineWords_word w hw]
  rfl

include htag hv

theorem assemble_set : assemble (['s', 'e', 't'] ++ ' ' :: (kind ++ ' ' :: w) ++ comma ++ (tag ++ ' ' :: v)) =
    (readSelectorText kind w).bind fun sel => (readValueText tag v).map (.set sel) := by
  have hwords : lineWords (['s', 'e', 't'] ++ ' ' :: (kind ++ ' ' :: w) ++ comma ++ (tag ++ ' ' :: v)) =
      [['s', 'e', 't'], kind, w ++ [','], tag, v] := by
    rw [append_comma_assoc, lineWords_append _ _ (by decide), append_comma_assoc, lineWords_append kind _ hkind,
      lineWords_append_comma _ hw, lineWords_append tag v htag, lineWords_word v hv]
  rw [assemble, hwords]
  simp

end

/-! ## The two words of a selector and of a value -/

/-- A selector is spelled as two words, from which it is read back. -/
theorem exists_selectorText_eq {sel : RegisterSelector} (h : sel.wellFormed = true) :
    ∃ kind w, ' ' ∉ kind ∧ ' ' ∉ w ∧ selectorText sel = kind ++ ' ' :: w ∧ readSelectorText kind w = some sel := by
  cases sel with
  | r8 r => exact ⟨['r', '8'], _, by decide, space_not_mem_register8Name r, rfl, by simp [readSelectorText]⟩
  | r16 r =>
    exact ⟨['r', '1', '6'], _, by decide, space_not_mem_register16Name r, rfl,
      by simp [readSelectorText, readRegister16_name r h]⟩

/-- A value is spelled as two words, from which it is read back. -/
theorem exists_valueText_eq (val : RegisterValue) :
    ∃ tag v, ' ' ∉ tag ∧ ' ' ∉ v ∧ valueText val = tag ++ ' ' :: v ∧ readValueText tag v = some val := by
  cases val with
  | v8 v => exact ⟨['v', '8'], _, by decide, space_not_mem_hexByte v, rfl, by simp [readValueText]⟩
  | v16 v => exact ⟨['v', '1', '6'], _, by decide, space_not_mem_hexWord v, rfl, by simp [readValueText]⟩

/-! ## From a command to its line and back -/

theorem assemble_assemblyLine {i : Instr} (h : i.wellFormed = true) : assemble (assemblyLine i) = some i := by
  cases i with
  | get8 r =>
    refine (assemble_read (m := ['g', 'e', 't', '8']) (by decide) (space_not_mem_register8Name r)).trans ?_
    simp [assembleRead]
  | set8 r v =>
    refine (assemble_write (m := ['s', 'e', 't', '8']) (by decide) (space_not_mem_register8Name r)
      (space_not_mem_hexByte v) (by decide)).trans ?_
    simp [assembleWrite]
  | get16 r =>
    refine (assemble_read (m := ['g', 'e', 't', '1', '6']) (by decide) (space_not_mem_register16Name r)).trans ?_
    simp [assembleRead, readRegister16_name r h]
  | set16 r w =>
    refine (assemble_write (m := ['s', 'e', 't', '1', '6']) (by decide) (space_not_mem_register16Name r)
      (space_not_mem_hexWord w) (by decide)).trans ?_
    simp [assembleWrite, readRegister16_name r h]
  | getf f =>
    refine (assemble_read (m := ['g', 'e', 't', 'f']) (by decide) (space_not_mem_flagName f)).trans ?_
    simp [assembleRead]
  | setf f b =>
    refine (assemble_write (m := ['s', 'e', 't', 'f']) (by decide) (space_not_mem_flagName f)
      (space_not_mem_bitName b) (by decide)).trans ?_
    simp [assembleWrite]
  | get sel =>
    obtain ⟨kind, w, hkind, hw, htext, hread⟩ := exists_selectorText_eq h
    rw [assemblyLine, htext]
    refine (assemble_get hkind hw).trans ?_
    rw [hread, Option.map_some]
  | set sel val =>
    obtain ⟨kind, w, hkind, hw, htext, hread⟩ := exists_selectorText_eq h
    obtain ⟨tag, v, htag, hv, hvalueText, hreadValue⟩ := exists_valueText_eq val
    rw [assemblyLine, htext, hvalueText]
    refine (assemble_set hkind hw htag hv).trans ?_
    rw [hread, hreadValue, Option.bind_some, Option.map_some]
  | dump => rfl

/-- A line that spells a command stands for that command's encoding. -/
theorem assembleLine_assemblyLine {i : Instr} (h : i.wellFormed = true) :
    assembleLine (assemblyLine i) = some (encode i) := by
  rw [assembleLine, assemble_assemblyLine h, Option.map_some]

/-! ## The obligations -/

/-- Settles O19: a line falls into the words it was spelled with, and each reader reads its word back. -/
theorem assemblerReadsBackEveryLine : Obligations.AssemblerReadsBackEveryLine := by
  unfold Obligations.AssemblerReadsBackEveryLine
  exact fun _ h => ⟨assemble_assemblyLine h, assembleLine_assemblyLine h⟩

/-- Settles O20: each line spells its command with the digits that `assemblyLine` writes. -/
theorem publishedLinesAssemble : Obligations.PublishedLinesAssemble := by
  unfold Obligations.PublishedLinesAssemble
  exact ⟨assembleLine_assemblyLine (i := .set16 (.reg .BC) 0x1234#16) rfl,
    assembleLine_assemblyLine (i := .set8 .HLind 0x55#8) rfl, assembleLine_assemblyLine (i := .get (.r8 .HLind)) rfl,
    assembleLine_assemblyLine (i := .setf .C true) rfl,
    assembleLine_assemblyLine (i := .set (.r8 .A) (.v16 0x0010#16)) rfl,
    assembleLine_assemblyLine (i := .set16 (.reserved 5#3) 0x9999#16) rfl,
    assembleLine_assemblyLine (i := .dump) rfl⟩

end Sys2Proof.Machine

/-! The proofs of the family 'other', commands, steps and runs. First that no meaning looks at the response held before,
then what a command issued again does, how a placed word and a run go on, and the obligations. -/

namespace Sys2Proof.Machine

/-! ## The response of a read -/

/-- The response of a read: the value read or its error (R73). -/
def readResponse : Except ErrorKind RegisterValue → Response
  | .ok v => .ok (.register v)
  | .error e => .error e

theorem endRead_eq (s : State) (x : Except ErrorKind RegisterValue) :
    endRead x s = .next (s.setResponse (readResponse x)) := by cases x <;> rfl

/-! ## The response held before does not matter -/

section
variable (s : State) (r : Response)

theorem endRead_setResponse (x : Except ErrorKind RegisterValue) : endRead x (s.setResponse r) = endRead x s := by
  cases x <;> rfl

theorem endWrite_setResponse (x : Except ErrorKind Bank) : endWrite x (s.setResponse r) = endWrite x s := by
  cases x <;> rfl

theorem exec_setResponse (i : Instr) : exec i (s.setResponse r) = exec i s := by
  cases i with
  | get8 q => exact endRead_setResponse s r _
  | set8 q v => exact endWrite_setResponse s r _
  | get16 q => exact endRead_setResponse s r _
  | set16 q w => exact endWrite_setResponse s r _
  | getf f => rfl
  | setf f b => rfl
  | get sel => exact endRead_setResponse s r _
  | set sel val => exact endWrite_setResponse s r _
  | dump => rfl

theorem performInput_setResponse (p : PortInput) : performInput p (s.setResponse r) = performInput p s := by
  obtain ⟨hrst, h⟩ | ⟨hrst, hvalid, h⟩ | ⟨hrst, hvalid, e, hdecode, h⟩ | ⟨hrst, hvalid, i, hdecode, h⟩ :=
    performInput_cases p s
  · exact (performInput_of_rst _ hrst).trans h.symm
  · exact (performInput_of_idle _ hrst hvalid).trans h.symm
  · exact (performInput_of_decode_error _ hrst hvalid hdecode).trans h.symm
  · exact (performInput_of_decode_ok _ hrst hvalid hdecode).trans ((exec_setResponse s r i).trans h.symm)

end

/-! ## A command issued again -/

/-- A read leaves the bank it read. -/
theorem endRead_again (read : Bank → Except ErrorKind RegisterValue) (s : State) :
    ∃ t, endRead (read s.bank) s = .next t ∧ endRead (read t.bank) t = .next t :=
  ⟨_, endRead_eq s _, endRead_eq (s.setResponse _) _⟩

/-- A write that has taken effect does nothing more, and one that ends in an error has changed nothing. -/
theorem endWrite_again (write : Bank → Except ErrorKind Bank) (hwrite : ∀ b b', write b = .ok b' → write b' = .ok b')
    (s : State) : ∃ t, endWrite (write s.bank) s = .next t ∧ endWrite (write t.bank) t = .next t := by
  obtain ⟨b, hb, h⟩ | ⟨e, -, h⟩ := endWrite_answers s (write s.bank)
  · refine ⟨_, h, ?_⟩
    rw [State.setResponse_bank, State.setBank_bank, hwrite s.bank b hb]
    rfl
  · exact ⟨_, h, (endWrite_setResponse s _ _).trans h⟩

section
variable {b b' : Bank}

/-- Writing back the value that a register reads leaves the bank as it was (R37). -/
theorem write8_read8 {r : Register8} {v : Byte} (h : b.read8 r = .ok v) : b.write8 r v = .ok b := by
  cases r with
  | HLind => cases h
  | B | C | D | E | H | L | A =>
    cases h
    simp [Bank.write8]

theorem write16_read16 {r : Register16} {w : Word} (h : b.read16 (.reg r) = .ok w) : b.write16 (.reg r) w = .ok b := by
  cases r with
  | BC | DE | HL | SP | PC =>
    cases h
    rfl

/-- A written register reads the value written, so the write again is the write-back of what it reads. -/
theorem write8_again {r : Register8} {v : Byte} (h : b.write8 r v = .ok b') : b'.write8 r v = .ok b' := by
  obtain ⟨hread, -⟩ := write8_spec b v r b' h
  exact write8_read8 hread

theorem write16_again {r : PortRegister16} {w : Word} (h : b.write16 r w = .ok b') : b'.write16 r w = .ok b' := by
  cases r with
  | reg r =>
    obtain ⟨b₁, h₁, hread, -⟩ := write16_spec b w r
    obtain rfl : b₁ = b' := Except.ok.inj (h₁.symm.trans h)
    exact write16_read16 hread
  | reserved c => cases h

theorem writeSelector_again {sel : RegisterSelector} {val : RegisterValue} (h : b.writeSelector sel val = .ok b') :
    b'.writeSelector sel val = .ok b' := by
  obtain ⟨r, v, rfl, rfl, hw⟩ | ⟨r, v, rfl, rfl, hw⟩ := writeSelector_ok_cases h
  · exact write8_again hw
  · exact write16_again hw

end

/-! ## A placed word, and a run -/

/-- A word from which the decoder reads a command is performed as that command when the host places it. -/
theorem step_withFetchWord {nbits w : Nat} {i : Instr} (s : State) (h : decodeTableWord nbits w = some i) :
    step (s.withFetchWord nbits w) = exec i s := by
  rw [State.withFetchWord_eq_presenting]
  refine step_presenting_of_decode_ok s ?_
  unfold decodeTableWord at h
  split at h
  · next hdecode => exact hdecode.trans (congrArg Except.ok (Option.some.inj h))
  · cases h

/-- A run of `k` steps takes `k` inputs off the stream. -/
theorem core_run_answers (k : Nat) (s : State) :
    ∃ t : State, core.run k s = .next t ∧ t.pending = s.pending.drop k := by
  induction k generalizing s with
  | zero => exact ⟨s, rfl, rfl⟩
  | succ k ih =>
    obtain ⟨b, r, hstep⟩ := step_answers s
    obtain ⟨t, ht, hpending⟩ := ih ((s.takeInput.setBank b).setResponse r)
    exact ⟨t, (core_run_succ k hstep).trans ht, hpending.trans List.drop_tail⟩

/-! ## The obligations -/

/-- Settles O38: a read reads the same bank again, and a write that succeeded writes what is already there. -/
theorem everyCommandIsIdempotent : Obligations.EveryCommandIsIdempotent := by
  unfold Obligations.EveryCommandIsIdempotent
  intro i s
  cases i with
  | get8 r => exact endRead_again (fun b => (b.read8 r).map .v8) s
  | set8 r v => exact endWrite_again (fun b => b.write8 r v) (fun _ _ => write8_again) s
  | get16 r => exact endRead_again (fun b => (b.read16 r).map .v16) s
  | set16 r w => exact endWrite_again (fun b => b.write16 r w) (fun _ _ => write16_again) s
  | getf f => exact ⟨_, exec_getf s f, rfl⟩
  | setf f c => exact ⟨_, exec_setf s f c, by simp [exec_setf]⟩
  | get sel => exact endRead_again (fun b => b.readSelector sel) s
  | set sel val => exact endWrite_again (fun b => b.writeSelector sel val) (fun _ _ => writeSelector_again) s
  | dump => exact ⟨_, exec_dump s, rfl⟩

/-- Settles O37: every read command ends as a read or with a flag or a snapshot, and each of these keeps the bank. -/
theorem readCommandsLeaveBankUnchanged : Obligations.ReadCommandsLeaveBankUnchanged := by
  unfold Obligations.ReadCommandsLeaveBankUnchanged
  intro i s hread
  cases i with
  | get8 r => exact ⟨_, endRead_eq s _⟩
  | get16 r => exact ⟨_, endRead_eq s _⟩
  | get sel => exact ⟨_, endRead_eq s _⟩
  | getf f => exact ⟨_, exec_getf s f⟩
  | dump => exact ⟨_, exec_dump s⟩
  | set8 | set16 | setf | set => simp [opOf] at hread

/-- Settles O8: the step takes its input from the stream, and no meaning looks at the response. -/
theorem stepIgnoresEarlierResponse : Obligations.StepIgnoresEarlierResponse := by
  unfold Obligations.StepIgnoresEarlierResponse
  exact fun s r => performInput_setResponse s.takeInput r s.nextInput

/-- Settles O4: the input read from an empty stream is the quiet one, which is idle. -/
theorem exhaustedStreamStepsIdle : Obligations.ExhaustedStreamStepsIdle := by
  unfold Obligations.ExhaustedStreamStepsIdle
  exact fun _ _ => performInput_of_idle (p := PortInput.quiet) _ rfl rfl

/-- Settles O6: the decoder reads the command back from its encoding, and from the word the host places. -/
theorem assembledCommandIsPerformed : Obligations.AssembledCommandIsPerformed := by
  unfold Obligations.AssembledCommandIsPerformed
  exact ⟨fun s _ h => step_presenting_of_decode_ok s (decode_encode h), fun s _ _ _ => step_withFetchWord s⟩

/-- Settles O7: by induction on the number of steps, each of which takes one input off the stream. -/
theorem everyRunGoesOn : Obligations.EveryRunGoesOn := by
  unfold Obligations.EveryRunGoesOn
  exact core_run_answers

end Sys2Proof.Machine

/-! The proofs of the family 'other', what a register write leaves. First what the write of a half does to its pair,
then the obligations. -/

namespace Sys2Proof.Machine

/-! ## The halves of a pair -/

section
variable {hi lo : Register8} {pair : Register16}
    (hpair : (hi, lo, pair) ∈ [(Register8.B, Register8.C, Register16.BC), (.D, .E, .DE), (.H, .L, .HL)])
include hpair

theorem halves_distinct : hi ≠ .HLind ∧ lo ≠ .HLind ∧ hi ≠ lo := by
  simp only [List.mem_cons, Prod.mk.injEq, List.not_mem_nil, or_false] at hpair
  obtain ⟨rfl, rfl, -⟩ | ⟨rfl, rfl, -⟩ | ⟨rfl, rfl, -⟩ := hpair <;> decide

/-- A pair and its halves read one value. -/
theorem read16_eq_ok_iff (b : Bank) (w : Word) :
    b.read16 (.reg pair) = .ok w ↔ b.read8 hi = .ok (highByte w) ∧ b.read8 lo = .ok (lowByte w) := by
  obtain ⟨x, y, hx, hy, hxy⟩ := read16_eq_append_halves b hpair
  rw [hx, hy, hxy]
  constructor
  · rintro ⟨⟩
    simp
  · rintro ⟨⟨⟩, ⟨⟩⟩
    simp

/-- A write of the first half replaces the high byte of what the pair reads. -/
theorem read16_after_write8_hi {b b' : Bank} {v : Byte} {w : Word} (hw : b.read16 (.reg pair) = .ok w)
    (h : b.write8 hi v = .ok b') : b'.read16 (.reg pair) = .ok (v ++ lowByte w) := by
  obtain ⟨-, -, hne⟩ := halves_distinct hpair
  obtain ⟨hsame, hother, -⟩ := write8_spec b v hi b' h
  obtain ⟨-, hlo⟩ := (read16_eq_ok_iff hpair b w).mp hw
  simp [read16_eq_ok_iff hpair, hsame, hother lo hne.symm, hlo]

theorem read16_after_write8_lo {b b' : Bank} {v : Byte} {w : Word} (hw : b.read16 (.reg pair) = .ok w)
    (h : b.write8 lo v = .ok b') : b'.read16 (.reg pair) = .ok (highByte w ++ v) := by
  obtain ⟨-, -, hne⟩ := halves_distinct hpair
  obtain ⟨hsame, hother, -⟩ := write8_spec b v lo b' h
  obtain ⟨hhi, -⟩ := (read16_eq_ok_iff hpair b w).mp hw
  simp [read16_eq_ok_iff hpair, hsame, hother hi hne, hhi]

end

/-! ## The obligations -/

/-- Settles O39: the write of a register with storage succeeds, and `write8_spec` is its frame. -/
theorem set8LeavesOtherRegistersAlone : Obligations.Set8LeavesOtherRegistersAlone := by
  unfold Obligations.Set8LeavesOtherRegistersAlone
  intro s r v hr
  obtain ⟨b, hwrite⟩ := write8_isOk s.bank v r hr
  obtain ⟨hsame, hother, hF, hSP, hPC⟩ := write8_spec s.bank v r b hwrite
  exact ⟨_, exec_set8_of_write8_eq hwrite, hsame, hother, hF, hSP, hPC, rfl⟩

/-- Settles O40: the write of each of the five registers succeeds, and `write16_spec` is its frame. -/
theorem set16LeavesOtherRegistersAlone : Obligations.Set16LeavesOtherRegistersAlone := by
  unfold Obligations.Set16LeavesOtherRegistersAlone
  intro s r v
  obtain ⟨b, hwrite, hsame, hother, hA, hF⟩ := write16_spec s.bank v r
  exact ⟨_, exec_set16_of_write16_eq hwrite, hsame, hother, hA, hF, rfl⟩

/-- Settles O43: GET8 answers what the register reads, and the write of that value gives the bank itself. -/
theorem writeBackOfReadValueChangesNothing : Obligations.WriteBackOfReadValueChangesNothing := by
  unfold Obligations.WriteBackOfReadValueChangesNothing
  intro s r hr
  obtain ⟨v, hread⟩ := read8_isOk s.bank r hr
  exact ⟨v, exec_get8_of_read8_eq hread, exec_set8_of_write8_eq (write8_read8 hread)⟩

/-- Settles O44: the write of a half replaces its byte of what the pair reads, and the halves of a written pair read the
bytes of the word. -/
theorem mixedWidthAccessSharesStorage : Obligations.MixedWidthAccessSharesStorage := by
  unfold Obligations.MixedWidthAccessSharesStorage
  intro s hi lo pair hpair
  obtain ⟨hhi, hlo, -⟩ := halves_distinct hpair
  refine ⟨fun v before hbefore => ⟨?_, ?_⟩, fun w => ?_⟩
  · obtain ⟨b, hwrite⟩ := write8_isOk s.bank v hi hhi
    exact ⟨_, exec_set8_of_write8_eq hwrite,
      exec_get16_of_read16_eq (read16_after_write8_hi hpair hbefore hwrite)⟩
  · obtain ⟨b, hwrite⟩ := write8_isOk s.bank v lo hlo
    exact ⟨_, exec_set8_of_write8_eq hwrite,
      exec_get16_of_read16_eq (read16_after_write8_lo hpair hbefore hwrite)⟩
  · obtain ⟨b, hwrite, hread, -⟩ := write16_spec s.bank w pair
    obtain ⟨hreadHi, hreadLo⟩ := (read16_eq_ok_iff hpair b w).mp hread
    exact ⟨_, exec_set16_of_write16_eq hwrite, exec_get8_of_read8_eq hreadHi, exec_get8_of_read8_eq hreadLo⟩

end Sys2Proof.Machine

/-! The proofs of the family 'other', what changes SP, PC and the flags and who sees SP. First what a step can do to the
bank, then a step from two states that differ in SP alone, and the obligations. -/

namespace Sys2Proof.Machine

/-! ## What a step can do to the bank -/

/-- The bank after a step is the reset bank, the bank as it was, or what the decoded command leaves. -/
theorem step_bankEffect (s : State) : ∃ t, step s = .next t ∧
    ((s.nextInput.rst = true ∧ t.bank = Bank.reset) ∨ t.bank = s.bank ∨
      (s.nextInput.cmdValid = true ∧ ∃ i, decode s.nextInput.cmd s.nextInput.wdata s.nextInput.wtag = .ok i ∧
        BankEffect s.bank i t.bank)) := by
  rw [step_eq]
  obtain ⟨hrst, h⟩ | ⟨-, -, h⟩ | ⟨-, -, e, -, h⟩ | ⟨-, hvalid, i, hdecode, h⟩ :=
    performInput_cases s.nextInput s.takeInput
  · exact ⟨_, h, .inl ⟨hrst, rfl⟩⟩
  · exact ⟨_, h, .inr (.inl rfl)⟩
  · exact ⟨_, h, .inr (.inl rfl)⟩
  · obtain ⟨t, ht, -, heffect⟩ := exec_bankEffect i s.takeInput
    exact ⟨t, h.trans ht, .inr (.inr ⟨hvalid, i, hdecode, heffect⟩)⟩

section
variable {b b' : Bank} {r : Register16}

/-- No 8-bit identifier names a part of SP or PC. -/
theorem write8_keeps_SP_PC (hr : r = .SP ∨ r = .PC) {q : Register8} {v : Byte} (h : b.write8 q v = .ok b') :
    b'.read16 (.reg r) = b.read16 (.reg r) := by
  obtain ⟨-, -, -, hSP, hPC⟩ := write8_spec b v q b' h
  obtain rfl | rfl := hr
  · exact congrArg Except.ok hSP
  · exact congrArg Except.ok hPC

/-- A 16-bit write gives the register it names its value and leaves every other register as it was. -/
theorem read16_after_write16 {q : PortRegister16} {w : Word} (h : b.write16 q w = .ok b') :
    b'.read16 (.reg r) = b.read16 (.reg r) ∨ (q = .reg r ∧ b'.read16 (.reg r) = .ok w) := by
  cases q with
  | reg q =>
    obtain ⟨b₁, h₁, hsame, hother, -⟩ := write16_spec b w q
    obtain rfl : b₁ = b' := Except.ok.inj (h₁.symm.trans h)
    by_cases hq : r = q
    · subst hq
      exact .inr ⟨rfl, hsame⟩
    · exact .inl (hother r hq)
  | reserved c => cases h

/-- SP and PC are kept by every command but a 16-bit write that names them (R26, R27). -/
theorem BankEffect.wholeWord_eq_or {i : Instr} (h : BankEffect b i b') (hr : r = .SP ∨ r = .PC) :
    b'.read16 (.reg r) = b.read16 (.reg r) ∨
      ∃ v, b'.read16 (.reg r) = .ok v ∧ (i = .set16 (.reg r) v ∨ i = .set (.r16 (.reg r)) (.v16 v)) := by
  cases h with
  | kept => exact .inl rfl
  | set8 hw => exact .inl (write8_keeps_SP_PC hr hw)
  | set16 hw =>
    obtain hkept | ⟨rfl, hread⟩ := read16_after_write16 (r := r) hw
    · exact .inl hkept
    · exact .inr ⟨_, hread, .inl rfl⟩
  | setf f c => exact .inl (read16_setF _ b (.reg r))
  | set hw =>
    obtain ⟨q, v, rfl, rfl, hw⟩ | ⟨q, v, rfl, rfl, hw⟩ := writeSelector_ok_cases hw
    · exact .inl (write8_keeps_SP_PC hr hw)
    · obtain hkept | ⟨rfl, hread⟩ := read16_after_write16 (r := r) hw
      · exact .inl hkept
      · exact .inr ⟨v, hread, .inr rfl⟩

/-- A flag is kept by every command but SETF of that flag (R30). -/
theorem BankEffect.readFlag_eq_or {i : Instr} (h : BankEffect b i b') (f : Flag) :
    readFlag f b'.F = readFlag f b.F ∨ i = .setf f (readFlag f b'.F) := by
  cases h with
  | kept => exact .inl rfl
  | set8 hw => exact .inl (congrArg (readFlag f) (write8_keeps_F hw))
  | set16 hw => exact .inl (congrArg (readFlag f) (write16_keeps_A_F hw).2)
  | setf g c =>
    by_cases hg : f = g
    · subst hg
      exact .inr (congrArg (Instr.setf f) (readFlag_writeFlag_same f c b.F).symm)
    · exact .inl (readFlag_writeFlag_of_ne g f c b.F hg)
  | set hw =>
    obtain ⟨q, v, -, -, hw⟩ | ⟨q, v, -, -, hw⟩ := writeSelector_ok_cases hw
    · exact .inl (congrArg (readFlag f) (write8_keeps_F hw))
    · exact .inl (congrArg (readFlag f) (write16_keeps_A_F hw).2)

end

/-! ## Two banks that differ in SP -/

section
variable (sp : Word) (b : Bank)

@[simp] theorem read8_setSP (r : Register8) : (b.setSP sp).read8 r = b.read8 r := by cases r <;> rfl

theorem read16_setSP {r : PortRegister16} (h : r ≠ .reg .SP) : (b.setSP sp).read16 r = b.read16 r := by
  cases r with
  | reg r =>
    cases r with
    | SP => exact absurd rfl h
    | BC | DE | HL | PC => rfl
  | reserved c => rfl

theorem readSelector_setSP {sel : RegisterSelector} (h : sel ≠ .r16 (.reg .SP)) :
    (b.setSP sp).readSelector sel = b.readSelector sel := by
  cases sel with
  | r8 r => simp [Bank.readSelector]
  | r16 r => rw [Bank.readSelector, read16_setSP sp b (by simpa using h), Bank.readSelector]

theorem write8_setSP (r : Register8) (v : Byte) : (b.setSP sp).write8 r v = (b.write8 r v).map (Bank.setSP sp) := by
  cases r <;> rfl

/-- A 16-bit write neither reads nor, unless it names SP, writes SP. -/
theorem write16_setSP (r : PortRegister16) (w : Word) :
    ∃ sp', (b.setSP sp).write16 r w = (b.write16 r w).map (Bank.setSP sp') := by
  cases r with
  | reg r =>
    cases r with
    | SP => exact ⟨w, rfl⟩
    | BC | DE | HL | PC => exact ⟨sp, rfl⟩
  | reserved c => exact ⟨sp, rfl⟩

theorem writeSelector_setSP (sel : RegisterSelector) (val : RegisterValue) :
    ∃ sp', (b.setSP sp).writeSelector sel val = (b.writeSelector sel val).map (Bank.setSP sp') := by
  cases sel with
  | r8 r =>
    cases val with
    | v8 v => exact ⟨sp, write8_setSP sp b r v⟩
    | v16 w => exact ⟨sp, rfl⟩
  | r16 r =>
    cases val with
    | v8 v => exact ⟨sp, rfl⟩
    | v16 w => exact write16_setSP sp b r w

/-- The state with another SP. -/
def State.setSP (s : State) : State := s.setBank (s.bank.setSP sp)

end

/-- Two next states that differ at most in SP and in the response, and not in the response where `unseen` holds. -/
def AgreeButSP (unseen : Prop) (a a' : Answer) : Prop :=
  ∃ t t', a = .next t ∧ a' = .next t' ∧ t'.bank.setSP t.bank.SP = t.bank ∧ t'.pending = t.pending ∧
    (unseen → t'.response = t.response)

section
variable (s : State) (sp : Word)

theorem endRead_agreeButSP {unseen : Prop} {x x' : Except ErrorKind RegisterValue} (h : unseen → x' = x) :
    AgreeButSP unseen (endRead x s) (endRead x' (s.setSP sp)) :=
  ⟨_, _, endRead_eq s x, endRead_eq (s.setSP sp) x', rfl, rfl, fun hunseen => congrArg readResponse (h hunseen)⟩

theorem endWrite_agreeButSP (unseen : Prop) {x x' : Except ErrorKind Bank} (h : ∃ sp', x' = x.map (Bank.setSP sp')) :
    AgreeButSP unseen (endWrite x s) (endWrite x' (s.setSP sp)) := by
  obtain ⟨sp', rfl⟩ := h
  cases x with
  | ok b => exact ⟨_, _, endWrite_ok s b, endWrite_ok (s.setSP sp) _, rfl, rfl, fun _ => rfl⟩
  | error e => exact ⟨_, _, endWrite_error s e, endWrite_error (s.setSP sp) e, rfl, rfl, fun _ => rfl⟩

theorem exec_agreeButSP (i : Instr) : AgreeButSP (i ≠ .get16 (.reg .SP) ∧ i ≠ .get (.r16 (.reg .SP)))
    (exec i s) (exec i (s.setSP sp)) := by
  cases i with
  | get8 r => exact endRead_agreeButSP s sp fun _ => congrArg (Except.map RegisterValue.v8) (read8_setSP sp s.bank r)
  | set8 r v => exact endWrite_agreeButSP s sp _ ⟨sp, write8_setSP sp s.bank r v⟩
  | get16 r =>
    exact endRead_agreeButSP s sp fun h =>
      congrArg (Except.map RegisterValue.v16) (read16_setSP sp s.bank fun hr => h.1 (congrArg Instr.get16 hr))
  | set16 r w => exact endWrite_agreeButSP s sp _ (write16_setSP sp s.bank r w)
  | getf f => exact ⟨_, _, exec_getf s f, exec_getf (s.setSP sp) f, rfl, rfl, fun _ => rfl⟩
  | setf f c => exact ⟨_, _, exec_setf s f c, exec_setf (s.setSP sp) f c, rfl, rfl, fun _ => rfl⟩
  | get sel =>
    exact endRead_agreeButSP s sp fun h =>
      readSelector_setSP sp s.bank fun hsel => h.2 (congrArg Instr.get hsel)
  | set sel val => exact endWrite_agreeButSP s sp _ (writeSelector_setSP sp s.bank sel val)
  | dump => exact ⟨_, _, exec_dump s, exec_dump (s.setSP sp), rfl, rfl, fun _ => rfl⟩

/-- The input does not decode to a command that reads SP. -/
def PortInput.ReadsNoSP (p : PortInput) : Prop :=
  decode p.cmd p.wdata p.wtag ≠ .ok (.get16 (.reg .SP)) ∧ decode p.cmd p.wdata p.wtag ≠ .ok (.get (.r16 (.reg .SP)))

theorem performInput_agreeButSP (p : PortInput) :
    AgreeButSP p.ReadsNoSP (performInput p s) (performInput p (s.setSP sp)) := by
  obtain ⟨hrst, h⟩ | ⟨hrst, hvalid, h⟩ | ⟨hrst, hvalid, e, hdecode, h⟩ | ⟨hrst, hvalid, i, hdecode, h⟩ :=
    performInput_cases p s
  · exact ⟨_, _, h, performInput_of_rst (s.setSP sp) hrst, rfl, rfl, fun _ => rfl⟩
  · exact ⟨_, _, h, performInput_of_idle (s.setSP sp) hrst hvalid, rfl, rfl, fun _ => rfl⟩
  · exact ⟨_, _, h, performInput_of_decode_error (s.setSP sp) hrst hvalid hdecode, rfl, rfl, fun _ => rfl⟩
  · obtain ⟨t, t', ht, ht', hbank, hpending, hresponse⟩ := exec_agreeButSP s sp i
    refine ⟨t, t', h.trans ht, (performInput_of_decode_ok (s.setSP sp) hrst hvalid hdecode).trans ht', hbank, hpending,
      fun ⟨hget16, hget⟩ => hresponse ⟨?_, ?_⟩⟩
    · exact fun hi => hget16 (hdecode.trans (congrArg Except.ok hi))
    · exact fun hi => hget (hdecode.trans (congrArg Except.ok hi))

end

/-! ## The obligations -/

/-- Settles O47: of the effects on the bank only a 16-bit write changes SP or PC, and it names the register. -/
theorem wholeWordRegistersChangeOnlyByWholeWrites : Obligations.WholeWordRegistersChangeOnlyByWholeWrites := by
  unfold Obligations.WholeWordRegistersChangeOnlyByWholeWrites
  intro s r hr
  obtain ⟨t, ht, ⟨hrst, -⟩ | hkept | ⟨hvalid, i, hdecode, heffect⟩⟩ := step_bankEffect s
  · exact ⟨t, ht, fun _ => .inl hrst⟩
  · exact ⟨t, ht, fun hchanged => absurd (congrArg (Bank.read16 (.reg r)) hkept) hchanged⟩
  · refine ⟨t, ht, fun hchanged => .inr ⟨hvalid, ?_⟩⟩
    obtain ⟨v, hread, hi⟩ := (heffect.wholeWord_eq_or hr).resolve_left hchanged
    exact ⟨v, hread, hi.imp (hdecode ▸ congrArg Except.ok) (hdecode ▸ congrArg Except.ok)⟩

/-- Settles O48: of the effects on the bank only SETF changes F, in the bit of the flag it names. -/
theorem flagsChangeOnlyBySetfOrReset : Obligations.FlagsChangeOnlyBySetfOrReset := by
  unfold Obligations.FlagsChangeOnlyBySetfOrReset
  intro s f
  obtain ⟨t, ht, ⟨hrst, -⟩ | hkept | ⟨hvalid, i, hdecode, heffect⟩⟩ := step_bankEffect s
  · exact ⟨t, ht, fun _ => .inl hrst⟩
  · exact ⟨t, ht, fun hchanged => absurd (by rw [hkept]) hchanged⟩
  · refine ⟨t, ht, fun hchanged => .inr ⟨hvalid, ?_⟩⟩
    exact hdecode.trans (congrArg Except.ok ((heffect.readFlag_eq_or f).resolve_left hchanged))

/-- Settles O50: reads that do not name SP, all writes, the flags and the snapshot are the same beside another SP. -/
theorem stackPointerIsSeenOnlyByItsReaders : Obligations.StackPointerIsSeenOnlyByItsReaders := by
  unfold Obligations.StackPointerIsSeenOnlyByItsReaders
  intro s sp
  obtain ⟨t, t', ht, ht', hbank, hpending, hresponse⟩ := performInput_agreeButSP s.takeInput sp s.nextInput
  exact ⟨t, t', ht, ht', hbank, hpending, fun hget16 hget => hresponse ⟨hget16, hget⟩⟩

end Sys2Proof.Machine

/-! The proofs of the family 'other', the invariant and the view. First where a snapshot shows the reserved bits and
that a command keeps the invariant, then the obligations. -/

namespace Sys2Proof.Machine

/-! ## The invariant -/

/-- Wires that carry no snapshot show the reserved bits as 0. -/
theorem dumpedReservedBits_zero : dumpedReservedBits 0#80 = 0#4 := by decide

theorem dumpedReservedBits_snapshot (b : Bank) : dumpedReservedBits b.snapshot = reservedBits b.F := by
  refine extractLsb'_snapshot_eq b fun i hi => ?_
  simp (disch := omega) only [getLsbD_snapshot, if_pos, if_neg, reservedBits, BitVec.getLsbD_extractLsb', hi,
    decide_true, Bool.true_and]
  congr 1
  omega

/-- A command keeps the reserved bits of F, and the snapshot it may answer shows them. -/
theorem exec_keeps_inv {s t : State} {i : Instr} (hs : reservedBits s.bank.F = 0#4) (h : exec i s = .next t) :
    t.Inv := by
  refine ⟨?_, ?_⟩
  · obtain ⟨t', ht', -, heffect⟩ := exec_bankEffect i s
    obtain rfl : t' = t := Host.Outcome.next.inj (ht'.symm.trans h)
    rw [heffect.reservedBits_eq, hs]
  · by_cases hi : i = .dump
    · subst hi
      obtain rfl := Host.Outcome.next.inj ((exec_dump s).symm.trans h)
      exact (dumpedReservedBits_snapshot s.bank).trans hs
    · rw [exec_snap_of_ne_dump hi h, dumpedReservedBits_zero]

/-! ## The obligations -/

/-- Settles O51: every reset value is zero, and the response held at reset carries no snapshot. -/
theorem resetMeetsInvariant : Obligations.ResetMeetsInvariant := by
  unfold Obligations.ResetMeetsInvariant
  exact ⟨reservedBits_reset, dumpedReservedBits_zero⟩

/-- Settles O52: reset zeroes F, an idle and an illegal step keep it, and a command keeps its reserved bits; only DUMP
answers a snapshot, which shows them. -/
theorem everyStepKeepsInvariant : Obligations.EveryStepKeepsInvariant := by
  unfold Obligations.EveryStepKeepsInvariant
  rintro s t ⟨hreserved, -⟩ hstep
  obtain ⟨-, h⟩ | ⟨-, -, h⟩ | ⟨-, -, e, -, h⟩ | ⟨-, -, i, -, h⟩ := performInput_cases s.nextInput s.takeInput
  · obtain rfl := Host.Outcome.next.inj (h.symm.trans hstep)
    exact ⟨reservedBits_reset, dumpedReservedBits_zero⟩
  · obtain rfl := Host.Outcome.next.inj (h.symm.trans hstep)
    exact ⟨hreserved, dumpedReservedBits_zero⟩
  · obtain rfl := Host.Outcome.next.inj (h.symm.trans hstep)
    exact ⟨hreserved, dumpedReservedBits_zero⟩
  · exact exec_keeps_inv (s := s.takeInput) hreserved (h.symm.trans hstep)

/-- Settles O53: `step_answersAs` simulates the step on the view. -/
theorem stepRefinesIndependentBytes : Obligations.StepRefinesIndependentBytes := by
  unfold Obligations.StepRefinesIndependentBytes
  intro s
  obtain ⟨t, ht, -, hview, hresponse⟩ := step_answersAs s
  exact ⟨t, ht, hview, hresponse⟩

/-- Settles O54: the view holds what every 8-bit register reads, the bits of F, SP and PC, and these determine the
bank. -/
theorem viewLosesNoState : Obligations.ViewLosesNoState := by
  unfold Obligations.ViewLosesNoState
  intro a b h
  refine bank_eq_of_reads (fun r => ?_) ?_ (congrArg ByteView.SP h) (congrArg ByteView.PC h)
  · rw [read8_eq_byte?, read8_eq_byte?, h]
  · rw [F_eq_append, F_eq_append, h]

end Sys2Proof.Machine
